-- ==== Sys2Proof/Word.lean ====
section
/-! DEFINITION. Word: the byte and the byte string of rule R9 (00_scope.md). -/

namespace Sys2Proof

/-- A byte: an unsigned 8-bit value, 0x00 to 0xFF (R9). -/
abbrev Byte := BitVec 8

/-- A byte string: a finite sequence of bytes, index 0 the first byte on the wire (R9, R51). -/
abbrev Bytes := List Byte

end Sys2Proof
end

