-- ==== Sys2Proof/Config.lean ====
section
/-! DEFINITION. Config: the implementation parameters of 00_scope.md R7, fixed when the block is instantiated; no operation
and no reset changes them (R231) and no register holds them. The two OPEN ones are an argument of the model, `Params`. -/

namespace Sys2Proof

/-- The two response layouts of R161. -/
inductive RespLayout where
  /-- LAYOUT_DOC: the source's offsets read literally. -/
  | doc
  /-- LAYOUT_WIRE: the layout of the radio module's API, from general knowledge (93 G3). -/
  | wire
deriving DecidableEq, Repr, Inhabited

/-- The OPEN parameters of an instance (R7): a model takes them as an argument (R8, R161). -/
structure Params where
  /-- `P_BUF_CAP`: any natural number (R7, R8). -/
  bufCap : Nat
  /-- `P_RESP_LAYOUT` (R7, R161). -/
  respLayout : RespLayout
deriving DecidableEq, Repr

namespace Config

/-- `P_START_BYTE` (R7). -/
def startByte : Byte := 0x7E

/-- `P_DEFAULT_FRAME_ID` (R7). -/
def defaultFrameId : Byte := 0x01

/-- `P_DEFAULT_OPTIONS` (R7): "apply immediately". -/
def defaultOptions : Byte := 0x02

/-- `P_DEFAULT_ADDR64` (R7): eight zero bytes. -/
def defaultAddr64 : Bytes := [0x00, 0x00, 0x00, 0x00, 0x00, 0x00, 0x00, 0x00]

/-- `P_MAX_LEN` (R7, R102): the largest number of frame-data bytes. -/
def maxLen : Nat := 0xFFFF

/-- `P_API_LOCAL_AT` (R7). -/
def apiLocalAt : Byte := 0x08

/-- `P_API_REMOTE_AT` (R7). -/
def apiRemoteAt : Byte := 0x17

/-- `P_API_LOCAL_AT_RESP` (R7). -/
def apiLocalAtResp : Byte := 0x88

/-- `P_API_REMOTE_AT_RESP` (R7). -/
def apiRemoteAtResp : Byte := 0x97

/-- `P_RESP_LAYOUT` of the instance `State.reset` is of (R7, R161, 92 D12): OPEN, either of the two (log entry 2). -/
opaque respLayout : RespLayout

/-- `P_BUF_CAP` of the instance `State.reset` is of (R7, R8, 92 D11): OPEN, any natural number; the 0x10003 that R8 recommends
is assumed nowhere (log entry 1). -/
opaque bufCap : Nat

/-- The open parameters of the instance `State.reset` is of. -/
def params : Params := { bufCap := bufCap, respLayout := respLayout }

end Config

end Sys2Proof
end

