-- ==== Sys2Proof/Machine/Primitives.lean ====
section
/-! DEFINITION. Primitives: the byte-string functions every other definition uses: slices (00_scope.md R10), checksum, length
field and hex conversion (40_bytecodec.md), and the layout of frames and candidates (30_encoding.md R75, R82). They are pure
functions of byte strings and know nothing of the state. -/

namespace Sys2Proof.Machine

/-- `s[i]` (R9), for an index inside `s`; every use below is inside. -/
def byteAt (s : Bytes) (i : Nat) : Byte := s.getD i 0

/-- The half-open slice `s[a..b)` (R10). -/
def slice (s : Bytes) (a b : Nat) : Bytes := (s.drop a).take (b - a)

/-- The exact sum of the bytes of `s`, a natural number (R100, R107). -/
def byteSum : Bytes → Nat
  | [] => 0
  | b :: s => b.toNat + byteSum s

/-- `sum8(s)` (R100). -/
def sum8 (s : Bytes) : Nat := byteSum s % 256

/-- `Checksum(s) = 0xFF - sum8(s)` (R100). -/
def checksum (s : Bytes) : Byte := BitVec.ofNat 8 (0xFF - sum8 s)

/-- The two length bytes `[n div 256, n mod 256]`, high byte first (R51, R102); exact for `n` up to 0xFFFF. -/
def lengthBytes (n : Nat) : Bytes := [BitVec.ofNat 8 (n / 256), BitVec.ofNat 8 (n % 256)]

/-- `LengthField(s)` (R102); `none` is `PayloadTooLarge`. -/
def lengthFieldOf (s : Bytes) : Option Bytes :=
  if s.length > Config.maxLen then none else some (lengthBytes s.length)

/-- `val(c)` of a hex digit `c`, in either case; `none` for a byte that is no hex digit (R104). -/
def hexVal (c : Byte) : Option Nat :=
  if 0x30 ≤ c.toNat ∧ c.toNat ≤ 0x39 then some (c.toNat - 0x30)
  else if 0x61 ≤ c.toNat ∧ c.toNat ≤ 0x66 then some (c.toNat - 0x61 + 10)
  else if 0x41 ≤ c.toNat ∧ c.toNat ≤ 0x46 then some (c.toNat - 0x41 + 10)
  else none

/-- `HexToBytes(t)` (R104): two digits a byte, the first digit the high four bits; `none` is `MalformedHex`, for an odd length
or a byte that is no hex digit. -/
def hexToBytes : Bytes → Option Bytes
  | [] => some []
  | [_] => none
  | hi :: lo :: rest =>
    match hexVal hi, hexVal lo, hexToBytes rest with
    | some h, some l, some s => some (BitVec.ofNat 8 (16 * h + l) :: s)
    | _, _, _ => none

/-- The lower-case digit of a value below 16 (R106). -/
def hexDigit (d : Nat) : Byte :=
  if d ≤ 9 then BitVec.ofNat 8 (0x30 + d) else BitVec.ofNat 8 (0x61 + d - 10)

/-- `BytesToHex(s)` (R106): two lower-case digits a byte, the high four bits first. -/
def bytesToHex : Bytes → Bytes
  | [] => []
  | b :: s => hexDigit (b.toNat / 16) :: hexDigit (b.toNat % 16) :: bytesToHex s

/-- A frame without its delimiter, as the parser receives it: length field, frame data, checksum (R75, R82). -/
def candidateOf (data : Bytes) : Bytes :=
  lengthBytes data.length ++ data ++ [checksum data]

/-- The whole frame of some frame data: start byte, length field, frame data, checksum (R75, R120). -/
def wireFrame (data : Bytes) : Bytes :=
  Config.startByte :: candidateOf data

/-- The declared length of a candidate: its first two bytes, big-endian (R82, R152). -/
def declaredLength (c : Bytes) : Nat := 256 * (byteAt c 0).toNat + (byteAt c 1).toNat

/-- The declared checksum of a candidate: its last byte (R82, R152). -/
def declaredChecksum (c : Bytes) : Byte := byteAt c (c.length - 1)

/-- The frame data of a candidate: everything between the length and the checksum (R82, R152). -/
def frameDataOf (c : Bytes) : Bytes := slice c 2 (c.length - 1)

end Sys2Proof.Machine
end

