-- ==== Sys2Proof/Syntax.lean ====
section
/-! DEFINITION. Syntax: one constructor per row of spec/opcode_table.json, the 13 operations of format OP8
(30_encoding.md R72) and the 4 frame types of format FRAME_API_ID (R77). -/

namespace Sys2Proof

/-- What the codec can be given to run. An operation (format OP8) has no operand in its word: it reads its operands from the
request registers and buffers (R70, R73). A frame (format FRAME_API_ID) is named by the first byte of its frame data and
carries the rest of the frame data, `body`: the frame id and the command payload (R75); `body` is empty for a frame whose
frame data is the api_id alone (R155). -/
inductive Instr where
  /-- CHECKSUM, op code 0x10 (R101). -/
  | checksum
  /-- LENGTH_FIELD, op code 0x11 (R103). -/
  | lengthField
  /-- HEX_TO_BYTES, op code 0x12 (R105). -/
  | hexToBytes
  /-- BYTES_TO_HEX, op code 0x13 (R108). -/
  | bytesToHex
  /-- ENC_LOCAL_AT, op code 0x20 (R122). -/
  | encLocalAt
  /-- ENC_REMOTE_AT, op code 0x21 (R124). -/
  | encRemoteAt
  /-- ENC_QUEUED_AT, op code 0x22 (R127). -/
  | encQueuedAt
  /-- ENC_TX, op code 0x23 (R128). -/
  | encTx
  /-- ENC_EXPLICIT_TX, op code 0x24 (R129). -/
  | encExplicitTx
  /-- SPLIT, op code 0x30 (R141). -/
  | split
  /-- VALIDATE, op code 0x40 (R156). -/
  | validate
  /-- PARSE, op code 0x41 (R168). -/
  | parse
  /-- DECODE_STREAM, op code 0x42 (R169). -/
  | decodeStream
  /-- Local AT Command frame, api_id 0x08 (R77, R78). -/
  | frameLocalAtCommand (body : Bytes)
  /-- Remote AT Command frame, api_id 0x17 (R77, R79). -/
  | frameRemoteAtCommand (body : Bytes)
  /-- Local AT Command Response frame, api_id 0x88 (R77, R80). -/
  | frameLocalAtResponse (body : Bytes)
  /-- Remote AT Command Response frame, api_id 0x97 (R77, R81). -/
  | frameRemoteAtResponse (body : Bytes)
deriving DecidableEq, Repr

end Sys2Proof
end

