-- ==== Sys2Proof/WellFormed.lean ====
section
/-! DEFINITION. WellFormed: which instructions have an encoding. -/

namespace Sys2Proof

/-- The frame data fits the 16-bit length field: `L` is at most 0xFFFF (R75, R102). -/
def frameDataFits (body : Bytes) : Bool :=
  decide (body.length + 1 ≤ Config.maxLen)

/-- An operation's word has no operand, so it is always well formed (R70); a frame is well formed when its frame data, the
api_id and the body, fits the length field (R75). -/
def Instr.wellFormed : Instr → Bool
  | .checksum => true
  | .lengthField => true
  | .hexToBytes => true
  | .bytesToHex => true
  | .encLocalAt => true
  | .encRemoteAt => true
  | .encQueuedAt => true
  | .encTx => true
  | .encExplicitTx => true
  | .split => true
  | .validate => true
  | .parse => true
  | .decodeStream => true
  | .frameLocalAtCommand body => frameDataFits body
  | .frameRemoteAtCommand body => frameDataFits body
  | .frameLocalAtResponse body => frameDataFits body
  | .frameRemoteAtResponse body => frameDataFits body

end Sys2Proof
end

