-- ==== Sys2Proof/Decode.lean ====
section
/-! DEFINITION. Decode: from bits to an instruction, total and rejecting by name, and after it the encoder, both from
30_encoding.md: the op code map (R72, R74), the frame-type map (R77) and the frame layout (R75, R82). -/

namespace Sys2Proof

/-- Why bytes are no instruction. -/
inductive Reject where
  /-- No byte at all. -/
  | empty
  /-- One of the 243 op codes that select no operation (R74). -/
  | illegalOp (code : Byte)
  /-- More than one byte, and the first is not the start byte (R75). -/
  | noDelimiter (first : Byte)
  /-- A frame with fewer than 4 bytes after its start byte (R151). -/
  | frameTooShort
  /-- A frame whose length field is not the length of its frame data (R153). -/
  | lengthMismatch
  /-- A frame whose last byte is not the checksum of its frame data (R154). -/
  | checksumMismatch
  /-- A frame of a type the frame-type map does not list (R77, R160). -/
  | unknownApiId (apiId : Byte)
deriving DecidableEq, Repr

/-- The op code map (R72): the decoder matches all 8 bits (R71), and every other op code is illegal (R74). -/
def decodeOp (code : Byte) : Except Reject Instr :=
  match code.toNat with
  | 0x10 => .ok .checksum
  | 0x11 => .ok .lengthField
  | 0x12 => .ok .hexToBytes
  | 0x13 => .ok .bytesToHex
  | 0x20 => .ok .encLocalAt
  | 0x21 => .ok .encRemoteAt
  | 0x22 => .ok .encQueuedAt
  | 0x23 => .ok .encTx
  | 0x24 => .ok .encExplicitTx
  | 0x30 => .ok .split
  | 0x40 => .ok .validate
  | 0x41 => .ok .parse
  | 0x42 => .ok .decodeStream
  | _ => .error (.illegalOp code)

/-- The frame-type map (R77), on the frame data: byte 0 is the api_id. -/
def decodeFrameData : Bytes → Except Reject Instr
  | [] => .error .frameTooShort
  | api :: body =>
    if api = Config.apiLocalAt then .ok (.frameLocalAtCommand body)
    else if api = Config.apiRemoteAt then .ok (.frameRemoteAtCommand body)
    else if api = Config.apiLocalAtResp then .ok (.frameLocalAtResponse body)
    else if api = Config.apiRemoteAtResp then .ok (.frameRemoteAtResponse body)
    else .error (.unknownApiId api)

/-- The bytes of a frame after its start byte, read by the candidate layout (R82) with the checks of R151, R153 and R154. -/
def decodeCandidate (c : Bytes) : Except Reject Instr :=
  if c.length < 4 then .error .frameTooShort
  else if (Machine.frameDataOf c).length ≠ Machine.declaredLength c then .error .lengthMismatch
  else if Machine.checksum (Machine.frameDataOf c) ≠ Machine.declaredChecksum c then .error .checksumMismatch
  else decodeFrameData (Machine.frameDataOf c)

/-- The decoder, total on any bytes. One byte is an op code (R70: the one fixed format of operations); a longer string that
begins with the start byte is a frame (R75). -/
def decode : Bytes → Except Reject Instr
  | [] => .error .empty
  | [code] => decodeOp code
  | first :: c => if first = Config.startByte then decodeCandidate c else .error (.noDelimiter first)

/-- The encoder: the op code of an operation (R72), the whole wire frame of a frame (R75, R77). -/
def encode : Instr → Bytes
  | .checksum => [0x10]
  | .lengthField => [0x11]
  | .hexToBytes => [0x12]
  | .bytesToHex => [0x13]
  | .encLocalAt => [0x20]
  | .encRemoteAt => [0x21]
  | .encQueuedAt => [0x22]
  | .encTx => [0x23]
  | .encExplicitTx => [0x24]
  | .split => [0x30]
  | .validate => [0x40]
  | .parse => [0x41]
  | .decodeStream => [0x42]
  | .frameLocalAtCommand body => Machine.wireFrame (0x08 :: body)
  | .frameRemoteAtCommand body => Machine.wireFrame (0x17 :: body)
  | .frameLocalAtResponse body => Machine.wireFrame (0x88 :: body)
  | .frameRemoteAtResponse body => Machine.wireFrame (0x97 :: body)

/-- The first `n` bytes of a word as the opcode table numbers its bits: bit 0 is the least significant bit of the first byte. -/
def tableBytes : Nat → Nat → Bytes
  | 0, _ => []
  | n + 1, w => BitVec.ofNat 8 w :: tableBytes n (w / 256)

/-- The instruction of an opcode-table word. Its bytes are an op code when the decoder reads one from them (format OP8);
otherwise they are the frame data of a frame (format FRAME_API_ID), laid out on the wire as R75 says and given to the same
decoder (log entry 5). -/
def decodeTableWord (nbits w : Nat) : Option Instr :=
  match decode (tableBytes (nbits / 8) w) with
  | .ok i => some i
  | .error _ =>
    match decode (Machine.wireFrame (tableBytes (nbits / 8) w)) with
    | .ok i => some i
    | .error _ => none

end Sys2Proof
end

