-- ==== Sys2Proof/Machine/State.lean ====
section
/-! DEFINITION. State: everything the spec gives the machine (10_state.md R20 to R33), as plain data, with the reset values of
R40, and beside it the host's side of the access port (20_memory.md R60, 70 R247), which is the model's own. -/

namespace Sys2Proof.Machine

/-- The error names of 60_exceptions.md R203; exactly the 11 of its table (93 I11). Their numbers are `errorCode`. -/
inductive ErrorCode where
  | none
  | malformedHex
  | payloadTooLarge
  | invalidCommandName
  | invalidFieldWidth
  | notImplemented
  | frameTooShort
  | lengthMismatch
  | checksumMismatch
  | unknownApiId
  | illegalOp
deriving DecidableEq, Repr

/-- What a `raise E(info)` carries (R12, R201). -/
structure Failure where
  error : ErrorCode
  info : Byte
deriving DecidableEq, Repr

/-- `StatusKind` (R33). -/
inductive StatusKind where
  | ok
  | error
  | invalidCommand
  | invalidParameter
  | noResponse
  | unrecognized
deriving DecidableEq, Repr

/-- The `kind` tag of a Response (R32). -/
inductive ResponseKind where
  | localAtResp
  | remoteAtResp
deriving DecidableEq, Repr

/-- `BaseRecord` (R30): what a successful VALIDATE exposes. -/
structure BaseRecord where
  /-- The candidate's first two bytes, big-endian. -/
  declaredLength : BitVec 16
  /-- The candidate's last byte. -/
  checksum : Byte
  /-- The bytes between them. -/
  frameData : Bytes
  /-- Byte 0 of the frame data. -/
  apiId : Byte
  /-- Byte 1 of the frame data, absent when there is only one. -/
  frameId : Option Byte
deriving DecidableEq, Repr

/-- `Response` (R32): a decoded inbound frame of either kind. -/
structure Response where
  kind : ResponseKind
  /-- The candidate: length bytes, frame data, checksum; no delimiter. -/
  raw : Bytes
  apiId : Byte
  frameId : Option Byte
  commandPayload : Bytes
  command : Option Bytes
  status : Option Byte
  statusKind : Option StatusKind
  isOk : Bool
  address16 : Option Bytes
  address64 : Option Bytes
  signalStrength : Option Byte
  /-- Always absent for `remoteAtResp`. -/
  nodeId : Option Bytes
deriving DecidableEq, Repr

/-- `DecodeResult` (R31): a Response, or an 8-bit error code with its 8-bit information. -/
inductive DecodeResult where
  | ok (response : Response)
  | err (code info : Byte)
deriving DecidableEq, Repr

/-- The request registers (R22 to R24) and request buffers (R28): written by the host and by reset only (R35). -/
structure Request where
  /-- OP, number 0x00: the op code the next issue runs (R22). -/
  op : Byte
  /-- ARGCTL, number 0x01: FID_DEF bit 0, A64_DEF bit 1, OPT_DEF bit 2; bits 7:3 reserved (R23). -/
  argctl : Byte
  /-- FRAME_ID, number 0x02 (R24). -/
  frameId : Byte
  /-- ARG_CMD, number 0x10. -/
  argCmd : Bytes
  /-- ARG_VALUE, number 0x11. -/
  argValue : Bytes
  /-- ARG_ADDR16, number 0x12. -/
  argAddr16 : Bytes
  /-- ARG_ADDR64, number 0x13. -/
  argAddr64 : Bytes
  /-- ARG_OPTIONS, number 0x14. -/
  argOptions : Bytes
  /-- IN, number 0x15. -/
  input : Bytes
deriving DecidableEq, Repr

/-- The result registers (R26, R27), the result buffer OUT (R28) and the result structures (R29 to R31): written by the engine
at an issue and by reset only (R35). -/
structure Results where
  /-- RSTAT, number 0x04: VALID bit 0, ERRF bit 1; bits 7:2 reserved (R26). -/
  rstat : Byte
  /-- ERR, number 0x05 (R27, R203). -/
  err : Byte
  /-- ERR_INFO, number 0x06 (R27). -/
  errInfo : Byte
  /-- OUT, number 0x18 (R28). -/
  out : Bytes
  /-- CANDS, number 0x19 (R29). -/
  cands : List Bytes
  /-- BASE, number 0x1A (R30). -/
  base : Option BaseRecord
  /-- RESULTS, number 0x1B (R31). -/
  results : List DecodeResult
deriving DecidableEq, Repr

/-- What an operation writes to the result buffer and structures before it returns; what it does not write stays as the
prologue cleared it (R200, R202). -/
structure Written where
  out : Bytes := []
  cands : List Bytes := []
  base : Option BaseRecord := none
  results : List DecodeResult := []
deriving DecidableEq, Repr

/-- The accesses of the host's port, each one atomic step (20_memory.md R60). -/
inductive Access where
  | writeReg (number value : Byte)
  | readReg (number : Byte)
  | writeBuf (number : Byte) (content : Bytes)
  | readBuf (number : Byte)
  | reset
deriving DecidableEq, Repr

/-- What a `ReadBuf` returns: the whole content of a buffer, list or record (R54, R60). -/
inductive Content where
  | bytes (content : Bytes)
  | cands (content : List Bytes)
  | base (content : Option BaseRecord)
  | results (content : List DecodeResult)
deriving DecidableEq, Repr

/-- One element of the observation of a run (70 R247). -/
inductive Observation where
  /-- The result registers and structures after a write to ISSUE. -/
  | issued (results : Results)
  /-- The value a `ReadReg` returned. -/
  | register (number value : Byte)
  /-- The content a `ReadBuf` returned. -/
  | buffer (number : Byte) (content : Content)
deriving DecidableEq, Repr

/-- The Host agent as the model holds it: the accesses it is still to make, in order, and what it has observed so far.
DESIGN CHOICE (log entry 3): neither is state of the codec (R20). -/
structure HostPort where
  pending : List Access
  observed : List Observation
deriving DecidableEq, Repr

structure State where
  /-- Request registers and buffers. -/
  req : Request
  /-- Result registers, buffer and structures. -/
  res : Results
  /-- The host's side of the port; the model's own. -/
  host : HostPort
  /-- The open parameters of the instance. They are configuration, not state of the codec (R7, R20): no step changes them (R231),
  and they stand here so that every meaning takes them as an argument (R8, R161; log entry 18). -/
  params : Params
deriving DecidableEq, Repr

/-- The codec raises no fault: every error is recorded in the result registers and the codec goes on (60 R209, R210), so this
type has no constructor and no step ends in a fault (log entry 17). -/
inductive Fault where
deriving DecidableEq, Repr

/-- Why a step has no next state. -/
inductive Refusal where
  /-- An instruction with no meaning yet, by its mnemonic; raised by `exec` only, and by no arm of it. Safe. -/
  | notModelled (mnemonic : String)
  /-- R55: a host write of a byte string longer than `P_BUF_CAP` to buffer `number`; raised by `writeBuf`. Safe: the spec
  gives the run no meaning, and no claim speaks of it (R247). -/
  | writeOverCapacity (number : Byte)
  /-- R55: an issue whose OUT, CANDS or RESULTS would exceed `P_BUF_CAP`; raised by `conclude`. Safe, as above. -/
  | resultOverCapacity
deriving DecidableEq, Repr

/-- The request registers and buffers after reset (R40). -/
def Request.reset : Request :=
  { op := 0x00, argctl := 0x07, frameId := 0x00, argCmd := [], argValue := [], argAddr16 := [], argAddr64 := [],
    argOptions := [], input := [] }

/-- The result registers and structures after reset (R40). -/
def Results.reset : Results :=
  { rstat := 0x00, err := 0x00, errInfo := 0x00, out := [], cands := [], base := none, results := [] }

/-- An instance with these open parameters right after reset (R40, R230), with a host that has made no access and observed nothing
(log entry 3). -/
def State.resetOf (p : Params) : State :=
  { req := Request.reset, res := Results.reset, host := { pending := [], observed := [] }, params := p }

/-- The machine right after reset: an instance of which nothing says which capacity and layout it has (log entries 1, 2). -/
def State.reset : State := State.resetOf Config.params

end Sys2Proof.Machine
end

