-- ==== Sys2Proof/Machine/Flags.lean ====
section
/-! DEFINITION. Flags: the bits of RSTAT and ARGCTL (10_state.md R23, R26, R34), the error numbers (60_exceptions.md R203) and
the status classification of a Response (43_parser.md R166, R167). -/

namespace Sys2Proof.Machine

/-- The number of an error (R203). -/
def errorCode : ErrorCode → Byte
  | .none => 0x00
  | .malformedHex => 0x01
  | .payloadTooLarge => 0x02
  | .invalidCommandName => 0x03
  | .invalidFieldWidth => 0x04
  | .notImplemented => 0x05
  | .frameTooShort => 0x06
  | .lengthMismatch => 0x07
  | .checksumMismatch => 0x08
  | .unknownApiId => 0x09
  | .illegalOp => 0x0A

/-- RSTAT after a `return`: VALID = 1, ERRF = 0 (R202). -/
def rstatReturned : Byte := 0b00000001

/-- RSTAT after a `raise`: VALID = 1, ERRF = 1 (R201). -/
def rstatRaised : Byte := 0b00000011

/-- The bits of RSTAT that are not reserved: VALID and ERRF (R26, R34). -/
def rstatMask : Byte := 0b00000011

/-- The bits of ARGCTL that are not reserved: FID_DEF, A64_DEF and OPT_DEF (R23, R34). -/
def argctlMask : Byte := 0b00000111

/-- RSTAT.VALID, bit 0 (R26). -/
def valid (r : Results) : Bool := r.rstat.getLsbD 0

/-- RSTAT.ERRF, bit 1 (R26). -/
def errf (r : Results) : Bool := r.rstat.getLsbD 1

/-- ARGCTL.FID_DEF, bit 0 (R23). -/
def fidDef (q : Request) : Bool := q.argctl.getLsbD 0

/-- ARGCTL.A64_DEF, bit 1 (R23). -/
def a64Def (q : Request) : Bool := q.argctl.getLsbD 1

/-- ARGCTL.OPT_DEF, bit 2 (R23). -/
def optDef (q : Request) : Bool := q.argctl.getLsbD 2

/-- `StatusKind(s)` of a status byte (R166). PRESUMED by the spec for 0x01 to 0x04 (93 G2, log entry 10). -/
def statusKindOf (status : Byte) : StatusKind :=
  match status.toNat with
  | 0x00 => .ok
  | 0x01 => .error
  | 0x02 => .invalidCommand
  | 0x03 => .invalidParameter
  | 0x04 => .noResponse
  | _ => .unrecognized

/-- `is_ok`: the status byte is present and its kind is OK (R167). -/
def isOkOf (status : Option Byte) : Bool :=
  match status with
  | none => false
  | some s => decide (statusKindOf s = .ok)

end Sys2Proof.Machine
end

