-- ==== Sys2Proof/Machine/Ops.lean ====
section
/-! DEFINITION. Ops: the shared operations. The issue sequence: prologue, raise, return (60_exceptions.md R200 to R202) with the
capacity rule (20_memory.md R55); and the host's register and buffer accesses (20_memory.md R60, 10_state.md R21). -/

namespace Sys2Proof.Machine

/-- A number of bytes or elements a buffer or list can hold: at most `P_BUF_CAP` (R8, R55). -/
def withinCap (p : Params) (n : Nat) : Bool :=
  decide (n ≤ p.bufCap)

/-- The result of an operation fits: OUT, CANDS and RESULTS each within `P_BUF_CAP` (R55). -/
def fits (p : Params) (w : Written) : Bool :=
  withinCap p w.out.length && withinCap p w.cands.length && withinCap p w.results.length

/-- The prologue of every issue (R200): OUT, CANDS, BASE and RESULTS are cleared. -/
def prologue (s : State) : State :=
  { s with res := { s.res with out := [], cands := [], base := none, results := [] } }

/-- `raise E(info)` (R201): the codec's one way of taking an error. It records the error, and saves no state, changes no mode
and transfers no control (R210). -/
def raiseError (f : Failure) (s : State) : State :=
  { s with res := { s.res with rstat := rstatRaised, err := errorCode f.error, errInfo := f.info } }

/-- What the operation itself wrote to the result buffer and structures (R12 `MemWrite`). -/
def writeResults (w : Written) (s : State) : State :=
  { s with res := { s.res with out := w.out, cands := w.cands, base := w.base, results := w.results } }

/-- `return` (R202). -/
def returnOk (s : State) : State :=
  { s with res := { s.res with rstat := rstatReturned, err := errorCode .none, errInfo := 0x00 } }

/-- A whole issue, given what the operation's own pseudocode comes to: the prologue; then the error raised, or the results
written and the return; refused where the results do not fit (R55, R200 to R202, R245). -/
def conclude (outcome : Except Failure Written) (s : State) : Host.Outcome State Fault Refusal :=
  match outcome with
  | .error f => .next (raiseError f (prologue s))
  | .ok w => if fits s.params w then .next (returnOk (writeResults w (prologue s))) else .refused .resultOverCapacity

/-- `ReadReg(n)` (R21, R60): the 8-bit value of register `n`; reserved bits read 0 (R34); 0 for ISSUE (R25), for every
unassigned number (R21) and for a number that names no register (log entry 6). -/
def readReg (n : Byte) (s : State) : Byte :=
  match n.toNat with
  | 0x00 => s.req.op
  | 0x01 => s.req.argctl &&& argctlMask
  | 0x02 => s.req.frameId
  | 0x04 => s.res.rstat &&& rstatMask
  | 0x05 => s.res.err
  | 0x06 => s.res.errInfo
  | _ => 0x00

/-- `WriteReg(n, v)` for every number but ISSUE (R60): it writes OP, ARGCTL (not its reserved bits, R34) or FRAME_ID; a write to
a result register (R35), an unassigned number (R21) or a number that names no register (log entry 6) is ignored. -/
def writeReg (n v : Byte) (s : State) : State :=
  match n.toNat with
  | 0x00 => { s with req := { s.req with op := v } }
  | 0x01 => { s with req := { s.req with argctl := v &&& argctlMask } }
  | 0x02 => { s with req := { s.req with frameId := v } }
  | _ => s

/-- `ReadBuf(n)` (R21, R60): the whole content of a buffer, list or record; `[]` for an unassigned number (R21) and for a number
that names no buffer or structure (log entry 6). -/
def readBuf (n : Byte) (s : State) : Content :=
  match n.toNat with
  | 0x10 => .bytes s.req.argCmd
  | 0x11 => .bytes s.req.argValue
  | 0x12 => .bytes s.req.argAddr16
  | 0x13 => .bytes s.req.argAddr64
  | 0x14 => .bytes s.req.argOptions
  | 0x15 => .bytes s.req.input
  | 0x18 => .bytes s.res.out
  | 0x19 => .cands s.res.cands
  | 0x1A => .base s.res.base
  | 0x1B => .results s.res.results
  | _ => .bytes []

/-- A buffer of R21's map: a request buffer or OUT. -/
def isBuffer (n : Byte) : Bool :=
  decide (0x10 ≤ n.toNat ∧ n.toNat ≤ 0x15) || decide (n = 0x18)

/-- Request buffer `n` replaced by `c`; a write to OUT or a result structure (R35), to an unassigned number (R21) or to a number
that names no buffer (log entry 6) is ignored. -/
def replaceBuf (n : Byte) (c : Bytes) (s : State) : State :=
  match n.toNat with
  | 0x10 => { s with req := { s.req with argCmd := c } }
  | 0x11 => { s with req := { s.req with argValue := c } }
  | 0x12 => { s with req := { s.req with argAddr16 := c } }
  | 0x13 => { s with req := { s.req with argAddr64 := c } }
  | 0x14 => { s with req := { s.req with argOptions := c } }
  | 0x15 => { s with req := { s.req with input := c } }
  | _ => s

/-- `WriteBuf(n, c)` (R60): refused when `n` is a buffer and `c` is longer than `P_BUF_CAP` (R55, log entry 7). -/
def writeBuf (n : Byte) (c : Bytes) (s : State) : Host.Outcome State Fault Refusal :=
  if isBuffer n && !withinCap s.params c.length then .refused (.writeOverCapacity n) else .next (replaceBuf n c s)

/-- `Reset` (R230): every piece of the codec's state takes its value of R40; the host's side stays, and so do the parameters
(R231). -/
def resetCodec (s : State) : State :=
  { s with req := Request.reset, res := Results.reset }

/-- The host notes what it observed (70 R247). -/
def observe (o : Observation) (s : State) : State :=
  { s with host := { s.host with observed := s.host.observed ++ [o] } }

/-- The host's accesses still to come become `l`. -/
def setPending (l : List Access) (s : State) : State :=
  { s with host := { s.host with pending := l } }

end Sys2Proof.Machine
end

