-- ==== Sys2Proof/Machine/Operands.lean ====
section
/-! DEFINITION. Operands: how each operand of an operation is formed (30_encoding.md R83, 10_state.md R23) and the width checks
of the builders (41_framebuilder.md R121), each the operand or the error it raises. -/

namespace Sys2Proof.Machine

/-- The frame id: the default when FID_DEF = 1, else FRAME_ID (R23, R122). -/
def frameIdOperand (q : Request) : Byte :=
  if fidDef q then Config.defaultFrameId else q.frameId

/-- The command name: ARG_CMD, exactly 2 bytes, taken byte for byte (R83, R121). -/
def commandOperand (q : Request) : Except Failure Bytes :=
  if q.argCmd.length = 2 then .ok q.argCmd else .error ⟨.invalidCommandName, 0x00⟩

/-- The 16-bit address: ARG_ADDR16, exactly 2 bytes (R121). -/
def addr16Operand (q : Request) : Except Failure Bytes :=
  if q.argAddr16.length = 2 then .ok q.argAddr16 else .error ⟨.invalidFieldWidth, 0x01⟩

/-- The 64-bit address: the default when A64_DEF = 1 (ARG_ADDR64 is then not read), else ARG_ADDR64, exactly 8 bytes
(R121, R124). -/
def addr64Operand (q : Request) : Except Failure Bytes :=
  if a64Def q then .ok Config.defaultAddr64
  else if q.argAddr64.length = 8 then .ok q.argAddr64
  else .error ⟨.invalidFieldWidth, 0x02⟩

/-- The options byte, as a byte string: the default when OPT_DEF = 1 (ARG_OPTIONS is then not read), else ARG_OPTIONS, exactly
1 byte (R121, R124). -/
def optionsOperand (q : Request) : Except Failure Bytes :=
  if optDef q then .ok [Config.defaultOptions]
  else if q.argOptions.length = 1 then .ok q.argOptions
  else .error ⟨.invalidFieldWidth, 0x03⟩

/-- `Field(p, a, b)` (R162): the slice when it is wholly inside the frame data, else absent. -/
def fieldBytes (p : Bytes) (a b : Nat) : Option Bytes :=
  if b ≤ p.length then some (slice p a b) else none

/-- A one-byte field at `[a, a+1)`: the byte itself when present (R162). -/
def fieldByte (p : Bytes) (a : Nat) : Option Byte :=
  if a + 1 ≤ p.length then some (byteAt p a) else none

/-- `NodeId(p, a)` (R165): the bytes from `a` on, less one final 0x00; absent when there is none. -/
def nodeIdField (p : Bytes) (a : Nat) : Option Bytes :=
  if p.length ≤ a then none
  else if byteAt p (p.length - 1) = 0x00 then some (slice p a (p.length - 1))
  else some (slice p a p.length)

end Sys2Proof.Machine
end

