-- ==== Sys2Proof/Machine/ByteCodec.lean ====
section
/-! DEFINITION. ByteCodec: the meanings of CHECKSUM, LENGTH_FIELD, HEX_TO_BYTES and BYTES_TO_HEX (40_bytecodec.md). -/

namespace Sys2Proof.Machine

/-- CHECKSUM (R101): OUT is the checksum byte of IN; never an error. -/
def execChecksum (s : State) : Host.Outcome State Fault Refusal :=
  conclude (.ok { out := [checksum s.req.input] }) s

/-- LENGTH_FIELD (R103): OUT is the big-endian length of IN, or `PayloadTooLarge`. -/
def execLengthField (s : State) : Host.Outcome State Fault Refusal :=
  conclude
    (match lengthFieldOf s.req.input with
      | none => .error ⟨.payloadTooLarge, 0x00⟩
      | some l => .ok { out := l })
    s

/-- HEX_TO_BYTES (R105): OUT is the bytes IN spells in hex, or `MalformedHex`. -/
def execHexToBytes (s : State) : Host.Outcome State Fault Refusal :=
  conclude
    (match hexToBytes s.req.input with
      | none => .error ⟨.malformedHex, 0x00⟩
      | some b => .ok { out := b })
    s

/-- BYTES_TO_HEX (R108): OUT is the lower-case hex text of IN; never an error. -/
def execBytesToHex (s : State) : Host.Outcome State Fault Refusal :=
  conclude (.ok { out := bytesToHex s.req.input }) s

end Sys2Proof.Machine
end

