-- ==== Sys2Proof/Machine/FrameBuilder.lean ====
section
/-! DEFINITION. FrameBuilder: the meanings of ENC_LOCAL_AT, ENC_REMOTE_AT and the three rejected variants
(41_framebuilder.md). -/

namespace Sys2Proof.Machine

/-- `Finalize(data)` (R120): the whole frame of the frame data, or `PayloadTooLarge` before anything is written. -/
def finalize (data : Bytes) : Except Failure Written :=
  match lengthFieldOf data with
  | none => .error ⟨.payloadTooLarge, 0x00⟩
  | some l => .ok { out := [Config.startByte] ++ l ++ data ++ [checksum data] }

/-- The frame data of a Local AT Command (R78): api_id, frame id, command, value. -/
def localAtData (fid : Byte) (cmd value : Bytes) : Bytes :=
  [Config.apiLocalAt, fid] ++ cmd ++ value

/-- The frame data of a Remote AT Command (R79): api_id, frame id, addresses, options, command, value. -/
def remoteAtData (fid : Byte) (a64 a16 opt cmd value : Bytes) : Bytes :=
  [Config.apiRemoteAt, fid] ++ a64 ++ a16 ++ opt ++ cmd ++ value

/-- The pseudocode of R122. -/
def buildLocalAt (q : Request) : Except Failure Written :=
  match commandOperand q with
  | .error f => .error f
  | .ok cmd => finalize (localAtData (frameIdOperand q) cmd q.argValue)

/-- The pseudocode of R124: the operand checks in the order of R207, then the frame. -/
def buildRemoteAt (q : Request) : Except Failure Written :=
  match commandOperand q with
  | .error f => .error f
  | .ok cmd =>
    match addr16Operand q with
    | .error f => .error f
    | .ok a16 =>
      match addr64Operand q with
      | .error f => .error f
      | .ok a64 =>
        match optionsOperand q with
        | .error f => .error f
        | .ok opt => finalize (remoteAtData (frameIdOperand q) a64 a16 opt cmd q.argValue)

/-- The pseudocode of the three rejected variants (R127 to R129): no operand is read. -/
def notImplemented : Except Failure Written := .error ⟨.notImplemented, 0x00⟩

/-- ENC_LOCAL_AT (R122). -/
def execEncLocalAt (s : State) : Host.Outcome State Fault Refusal :=
  conclude (buildLocalAt s.req) s

/-- ENC_REMOTE_AT (R124). -/
def execEncRemoteAt (s : State) : Host.Outcome State Fault Refusal :=
  conclude (buildRemoteAt s.req) s

/-- ENC_QUEUED_AT (R127): always `NotImplemented`. -/
def execEncQueuedAt (s : State) : Host.Outcome State Fault Refusal :=
  conclude notImplemented s

/-- ENC_TX (R128): always `NotImplemented`. -/
def execEncTx (s : State) : Host.Outcome State Fault Refusal :=
  conclude notImplemented s

/-- ENC_EXPLICIT_TX (R129): always `NotImplemented`. -/
def execEncExplicitTx (s : State) : Host.Outcome State Fault Refusal :=
  conclude notImplemented s

end Sys2Proof.Machine
end

