-- ==== Sys2Proof/Machine/FrameSplitter.lean ====
section
/-! DEFINITION. FrameSplitter: the meaning of SPLIT (42_splitter.md). -/

namespace Sys2Proof.Machine

/-- The segments of R140: the byte string cut at every start byte, which belongs to no segment. The segment a byte joins is the
first of the segments of what follows it. -/
def segments : Bytes → List Bytes
  | [] => [[]]
  | b :: rest =>
    if b = Config.startByte then [] :: segments rest
    else
      match segments rest with
      | [] => [[b]]
      | cur :: segs => (b :: cur) :: segs

/-- `Split(buf)` (R140): every segment but the first, empty ones too. -/
def splitFrames (buf : Bytes) : List Bytes := (segments buf).drop 1

/-- SPLIT (R141): CANDS is the candidates of IN; never an error. -/
def execSplit (s : State) : Host.Outcome State Fault Refusal :=
  conclude (.ok { cands := splitFrames s.req.input }) s

end Sys2Proof.Machine
end

