-- ==== Sys2Proof/Machine/ResponseParser.lean ====
section
/-! DEFINITION. ResponseParser: the validator and the parser, and the meanings of VALIDATE, PARSE and DECODE_STREAM
(43_parser.md). -/

namespace Sys2Proof.Machine

/-- `Validate(c)` (R150): the checks of R151, R153 and R154 in that order, then the base record (R152, R155). -/
def validateCandidate (c : Bytes) : Except Failure BaseRecord :=
  if c.length < 4 then .error ⟨.frameTooShort, 0x00⟩
  else if (frameDataOf c).length ≠ declaredLength c then .error ⟨.lengthMismatch, 0x00⟩
  else if checksum (frameDataOf c) ≠ declaredChecksum c then .error ⟨.checksumMismatch, 0x00⟩
  else
    .ok
      { declaredLength := BitVec.ofNat 16 (declaredLength c)
        checksum := declaredChecksum c
        frameData := frameDataOf c
        apiId := byteAt (frameDataOf c) 0
        frameId := fieldByte (frameDataOf c) 1 }

/-- `command_payload` (R159): the frame data after api_id and frame_id, `[]` when there is none. -/
def commandPayloadOf (p : Bytes) : Bytes := p.drop 2

/-- The 0x97 rows of R161 for the fields that differ between the layouts: start and end of `command`, position of `status`,
position of `signal_strength`. -/
def remoteRows : RespLayout → (Nat × Nat) × Nat × Nat
  | .doc => ((13, 14), 12, 14)
  | .wire => ((12, 14), 14, 15)

/-- `RemoteResponse(c, b)` (R163). -/
def remoteResponse (layout : RespLayout) (c : Bytes) (b : BaseRecord) : Response :=
  let p := b.frameData
  let ((cmdFrom, cmdTo), statusAt, signalAt) := remoteRows layout
  let status := fieldByte p statusAt
  { kind := .remoteAtResp
    raw := c
    apiId := b.apiId
    frameId := b.frameId
    commandPayload := commandPayloadOf p
    command := fieldBytes p cmdFrom cmdTo
    status := status
    statusKind := status.map statusKindOf
    isOk := isOkOf status
    address16 := fieldBytes p 10 12
    address64 := fieldBytes p 2 10
    signalStrength := fieldByte p signalAt
    nodeId := none }

/-- The 0x88 rows of R161: start and end of `command`, position of `status`, start and end of `address16` and of `address64`,
position of `signal_strength`, start of `node_id`. -/
def localRows : RespLayout → (Nat × Nat) × Nat × (Nat × Nat) × (Nat × Nat) × Nat × Nat
  | .doc => ((1, 2), 3, (4, 6), (6, 14), 14, 15)
  | .wire => ((2, 4), 4, (5, 7), (7, 15), 15, 16)

/-- `LocalResponse(c, b)` (R164). -/
def localResponse (layout : RespLayout) (c : Bytes) (b : BaseRecord) : Response :=
  let p := b.frameData
  let ((cmdFrom, cmdTo), statusAt, (a16From, a16To), (a64From, a64To), signalAt, nodeFrom) := localRows layout
  let status := fieldByte p statusAt
  { kind := .localAtResp
    raw := c
    apiId := b.apiId
    frameId := b.frameId
    commandPayload := commandPayloadOf p
    command := fieldBytes p cmdFrom cmdTo
    status := status
    statusKind := status.map statusKindOf
    isOk := isOkOf status
    address16 := fieldBytes p a16From a16To
    address64 := fieldBytes p a64From a64To
    signalStrength := fieldByte p signalAt
    nodeId := nodeIdField p nodeFrom }

/-- The dispatch on `api_id` (R158, R160). -/
def parseBase (layout : RespLayout) (c : Bytes) (b : BaseRecord) : Except Failure Response :=
  if b.apiId = Config.apiRemoteAtResp then .ok (remoteResponse layout c b)
  else if b.apiId = Config.apiLocalAtResp then .ok (localResponse layout c b)
  else .error ⟨.unknownApiId, b.apiId⟩

/-- `Parse(c)` (R158). -/
def parseCandidate (layout : RespLayout) (c : Bytes) : Except Failure Response :=
  match validateCandidate c with
  | .error f => .error f
  | .ok b => parseBase layout c b

/-- A result of the parser as an element of RESULTS (R31). -/
def decodeResultOf : Except Failure Response → DecodeResult
  | .ok r => .ok r
  | .error f => .err (errorCode f.error) f.info

/-- VALIDATE (R156). -/
def execValidate (s : State) : Host.Outcome State Fault Refusal :=
  conclude
    (match validateCandidate s.req.input with
      | .error f => .error f
      | .ok b => .ok { base := some b })
    s

/-- PARSE (R168). -/
def execParse (s : State) : Host.Outcome State Fault Refusal :=
  conclude
    (match parseCandidate s.params.respLayout s.req.input with
      | .error f => .error f
      | .ok r => .ok { results := [.ok r] })
    s

/-- DECODE_STREAM (R169): one result for each candidate, in order; never an error of the operation (R206). -/
def execDecodeStream (s : State) : Host.Outcome State Fault Refusal :=
  conclude
    (.ok
      { cands := splitFrames s.req.input
        results := (splitFrames s.req.input).map fun c => decodeResultOf (parseCandidate s.params.respLayout c) })
    s

end Sys2Proof.Machine
end

