-- ==== Sys2Proof/Machine/Frames.lean ====
section
/-! DEFINITION. Frames: the meanings of the four frame types of 30_encoding.md R77. A frame is run by the parser, which
dispatches on its api_id (43_parser.md R158): what each meaning here does is what an issue of PARSE does when IN holds the
frame without its delimiter (log entry 4). -/

namespace Sys2Proof.Machine

/-- A frame with the frame data `api :: body` reaches the parser: it is validated (R150), and when it validates, `decoded` says
what its type comes to, given the candidate and its base record. -/
def receiveFrame (api : Byte) (body : Bytes) (decoded : Bytes → BaseRecord → Except Failure Response) (s : State) :
    Host.Outcome State Fault Refusal :=
  conclude
    (match validateCandidate (candidateOf (api :: body)) with
      | .error f => .error f
      | .ok b =>
        match decoded (candidateOf (api :: body)) b with
        | .error f => .error f
        | .ok r => .ok { results := [.ok r] })
    s

/-- Local AT Command frame (R77: not decoded, `UnknownApiId(0x08)`; R160). -/
def execFrameLocalAtCommand (body : Bytes) (s : State) : Host.Outcome State Fault Refusal :=
  receiveFrame Config.apiLocalAt body (fun _ _ => .error ⟨.unknownApiId, Config.apiLocalAt⟩) s

/-- Remote AT Command frame (R77: not decoded, `UnknownApiId(0x17)`; R160). -/
def execFrameRemoteAtCommand (body : Bytes) (s : State) : Host.Outcome State Fault Refusal :=
  receiveFrame Config.apiRemoteAt body (fun _ _ => .error ⟨.unknownApiId, Config.apiRemoteAt⟩) s

/-- Local AT Command Response frame (R77: decoded as LOCAL_AT_RESP; R164). -/
def execFrameLocalAtResponse (body : Bytes) (s : State) : Host.Outcome State Fault Refusal :=
  receiveFrame Config.apiLocalAtResp body (fun c b => .ok (localResponse s.params.respLayout c b)) s

/-- Remote AT Command Response frame (R77: decoded as REMOTE_AT_RESP; R163). -/
def execFrameRemoteAtResponse (body : Bytes) (s : State) : Host.Outcome State Fault Refusal :=
  receiveFrame Config.apiRemoteAtResp body (fun c b => .ok (remoteResponse s.params.respLayout c b)) s

end Sys2Proof.Machine
end

