-- ==== Sys2Proof/Machine/Dispatch.lean ====
section
/-! DEFINITION. Dispatch: one arm per instruction. -/

namespace Sys2Proof.Machine

/-- What an issue of the instruction does. -/
def exec (i : Instr) (s : State) : Host.Outcome State Fault Refusal :=
  match i with
  | .checksum => Sys2Proof.Machine.execChecksum s
  | .lengthField => Sys2Proof.Machine.execLengthField s
  | .hexToBytes => Sys2Proof.Machine.execHexToBytes s
  | .bytesToHex => Sys2Proof.Machine.execBytesToHex s
  | .encLocalAt => Sys2Proof.Machine.execEncLocalAt s
  | .encRemoteAt => Sys2Proof.Machine.execEncRemoteAt s
  | .encQueuedAt => Sys2Proof.Machine.execEncQueuedAt s
  | .encTx => Sys2Proof.Machine.execEncTx s
  | .encExplicitTx => Sys2Proof.Machine.execEncExplicitTx s
  | .split => Sys2Proof.Machine.execSplit s
  | .validate => Sys2Proof.Machine.execValidate s
  | .parse => Sys2Proof.Machine.execParse s
  | .decodeStream => Sys2Proof.Machine.execDecodeStream s
  | .frameLocalAtCommand body => Sys2Proof.Machine.execFrameLocalAtCommand body s
  | .frameRemoteAtCommand body => Sys2Proof.Machine.execFrameRemoteAtCommand body s
  | .frameLocalAtResponse body => Sys2Proof.Machine.execFrameLocalAtResponse body s
  | .frameRemoteAtResponse body => Sys2Proof.Machine.execFrameRemoteAtResponse body s

end Sys2Proof.Machine
end

