-- ==== Sys2Proof/Machine/Port.lean ====
section
/-! DEFINITION. Port: the host's accesses as steps of the machine (20_memory.md R60), the issue among them (10_state.md R25,
60_exceptions.md R200, R205), and how an instruction is placed where the next access runs it. -/

namespace Sys2Proof.Machine

/-- The number of ISSUE (R21, R25). -/
def issueNumber : Byte := 0x03

/-- An issue (R25, R200, R205): the operation OP selects, or `IllegalOp(OP)` after the prologue. -/
def issue (s : State) : Host.Outcome State Fault Refusal :=
  match decodeOp s.req.op with
  | .ok i => exec i s
  | .error _ => .next (raiseError ⟨.illegalOp, s.req.op⟩ (prologue s))

/-- The host sees the results of an issue that completed (70 R247); a refused one has no next state (R55). -/
def observeIssue (o : Host.Outcome State Fault Refusal) : Host.Outcome State Fault Refusal :=
  match o with
  | .next s => .next (observe (.issued s.res) s)
  | .fault r => .fault r
  | .refused r => .refused r

/-- One host access, one atomic step (R60, R245). A read changes no register, buffer or result (R56); it only adds to what the
host has observed. -/
def performAccess (a : Access) (s : State) : Host.Outcome State Fault Refusal :=
  match a with
  | .writeReg n v => if n = issueNumber then observeIssue (issue s) else .next (writeReg n v s)
  | .readReg n => .next (observe (.register n (readReg n s)) s)
  | .writeBuf n c => writeBuf n c s
  | .readBuf n => .next (observe (.buffer n (readBuf n s)) s)
  | .reset => .next (resetCodec s)

/-- One step: the next of the host's accesses, in the order the host makes them (R58); with none left the codec holds its state
and does nothing (R217). -/
def stepAccess (s : State) : Host.Outcome State Fault Refusal :=
  match s.host.pending with
  | [] => .next s
  | a :: rest => performAccess a (setPending rest s)

/-- The operation that runs a received frame: PARSE (log entry 4). -/
def parseCode : Byte := 0x41

/-- Where an instruction stands when the next issue is to run it: an operation's op code in OP (R70); for a frame, the frame
without its delimiter in IN and PARSE in OP (R168, log entry 5). -/
def placeInstr (i : Instr) (s : State) : State :=
  match encode i with
  | [code] => { s with req := { s.req with op := code } }
  | w => { s with req := { s.req with op := parseCode, input := w.drop 1 } }

/-- The host's next access becomes a write to ISSUE (R25). -/
def issueNext (s : State) : State :=
  setPending (.writeReg issueNumber 0x00 :: s.host.pending) s

/-- `s` in an instance with room for `n` more bytes; the capacity is only raised (log entry 5). -/
def withRoom (n : Nat) (s : State) : State :=
  { s with params := { s.params with bufCap := s.params.bufCap + n } }

/-- An opcode-table word stored where the next step runs it, with room for its bytes and for the longest result of a first issue
after reset, the two bytes of LENGTH_FIELD; a word that is no instruction is stored in OP as it is. -/
def placeTableWord (s : State) (nbits w : Nat) : State :=
  match decodeTableWord nbits w with
  | some i => issueNext (placeInstr i (withRoom ((encode i).length + 2) s))
  | none => issueNext { s with req := { s.req with op := BitVec.ofNat 8 w } }

end Sys2Proof.Machine
end

