-- ==== Sys2Proof/Machine/Step.lean ====
section
/-! DEFINITION. Step: the machine's step, and the state in which it runs a given opcode-table word next. -/

namespace Sys2Proof.Machine

/-- One step of the machine: the host's next access (`stepAccess`). -/
def step (s : State) : Host.Outcome State Fault Refusal :=
  stepAccess s

/-- `s` with the instruction of an opcode-table word placed so that the very next step runs it (`placeTableWord`). -/
def State.withFetchWord (s : State) (nbits w : Nat) : State :=
  placeTableWord s nbits w

end Sys2Proof.Machine
end

