-- ==== Sys2Proof/Machine/Program.lean ====
section
/-! DEFINITION. Program: the lines of 30_encoding.md R84, their expansion into host accesses (R85), the source's callable surface
(R86), the encoding of a program (R87), and the text of a line. A program is what a host makes of the codec: none of this is
state or step of the codec. -/

namespace Sys2Proof.Machine

/-- The operands a line names (R84); `none` is an operand it does not name. -/
structure LineArgs where
  input : Option Bytes := none
  cmd : Option Bytes := none
  value : Option Bytes := none
  addr16 : Option Bytes := none
  addr64 : Option Bytes := none
  options : Option Bytes := none
  fid : Option Byte := none
deriving DecidableEq, Repr

/-- One line: an operation and its operands (R84). -/
structure Line where
  op : Instr
  args : LineArgs := {}
deriving DecidableEq, Repr

/-- A line that names no builder's operand. -/
def namesNoBuilderOperand (a : LineArgs) : Bool :=
  a.cmd.isNone && a.value.isNone && a.addr16.isNone && a.addr64.isNone && a.options.isNone && a.fid.isNone

/-- The operands a line may name are those R84 lists for its mnemonic. An operand R84 does not bracket may still be left out: its
buffer keeps its content (R85, log entry 15). A frame type is no line. The operand `in` of HEX_TO_BYTES, which R84 writes as a
quoted text, may be either form of `<bytes>`: DESIGN CHOICE, log entry 19. -/
def lineAllowed (l : Line) : Bool :=
  match l.op with
  | .checksum => namesNoBuilderOperand l.args
  | .lengthField => namesNoBuilderOperand l.args
  | .hexToBytes => namesNoBuilderOperand l.args
  | .bytesToHex => namesNoBuilderOperand l.args
  | .encLocalAt => l.args.input.isNone && l.args.addr16.isNone && l.args.addr64.isNone && l.args.options.isNone
  | .encRemoteAt => l.args.input.isNone
  | .encQueuedAt => l.args.input.isNone && namesNoBuilderOperand l.args
  | .encTx => l.args.input.isNone && namesNoBuilderOperand l.args
  | .encExplicitTx => l.args.input.isNone && namesNoBuilderOperand l.args
  | .split => namesNoBuilderOperand l.args
  | .validate => namesNoBuilderOperand l.args
  | .parse => namesNoBuilderOperand l.args
  | .decodeStream => namesNoBuilderOperand l.args
  | .frameLocalAtCommand _ => false
  | .frameRemoteAtCommand _ => false
  | .frameLocalAtResponse _ => false
  | .frameRemoteAtResponse _ => false

/-- The write of a buffer a line names; nothing for a buffer it does not name (R85). -/
def bufAccess (n : Byte) : Option Bytes → List Access
  | none => []
  | some c => [.writeBuf n c]

/-- Step 1 of R85, in the order of the buffer numbers (log entry 15). -/
def bufAccesses (a : LineArgs) : List Access :=
  bufAccess 0x10 a.cmd ++ bufAccess 0x11 a.value ++ bufAccess 0x12 a.addr16 ++ bufAccess 0x13 a.addr64 ++
    bufAccess 0x14 a.options ++ bufAccess 0x15 a.input

/-- The ARGCTL value of step 2 of R85: a flag is 0 when its operand is named, else 1. -/
def lineArgctl (a : LineArgs) : Byte :=
  (if a.fid.isSome then 0b000 else 0b001) ||| (if a.addr64.isSome then 0b000 else 0b010) |||
    (if a.options.isSome then 0b000 else 0b100)

/-- Step 2 of R85: FRAME_ID when named, then ARGCTL. -/
def builderAccesses (a : LineArgs) : List Access :=
  (match a.fid with
    | none => []
    | some f => [Access.writeReg 0x02 f]) ++ [.writeReg 0x01 (lineArgctl a)]

/-- The host accesses of one line (R85). -/
def expandLine (l : Line) : List Access :=
  bufAccesses l.args ++
    (if l.op = .encLocalAt ∨ l.op = .encRemoteAt then builderAccesses l.args else []) ++
    (match encode l.op with
      | [code] => [.writeReg 0x00 code, .writeReg issueNumber 0x00]
      | _ => [])

/-- The encoding of a program: the accesses of its lines, in order (R87). -/
def encodeProgram (p : List Line) : List Access := p.flatMap expandLine

/-- A program given to the host to run (log entry 3). -/
def loadProgram (p : List Line) (s : State) : State := setPending (encodeProgram p) s

/-- `encodeLocalAt(cmd, value)` (R86). -/
def lineEncodeLocalAt (cmd value : Bytes) : Line :=
  { op := .encLocalAt, args := { cmd := some cmd, value := some value } }

/-- `buildLocalAtCommand(command, value, frameId)`, the default frame id when none is given (R86). -/
def lineBuildLocalAtCommand (command value : Bytes) (frameId : Option Byte) : Line :=
  { op := .encLocalAt, args := { cmd := some command, value := some value, fid := frameId } }

/-- `encodeRemoteAt(addr16, cmd, value, addr64?, options?)` (R86). -/
def lineEncodeRemoteAt (addr16 cmd value : Bytes) (addr64 options : Option Bytes) : Line :=
  { op := .encRemoteAt,
    args := { addr16 := some addr16, cmd := some cmd, value := some value, addr64 := addr64, options := options } }

/-- `buildRemoteAtCommand` with every operand given (R86). -/
def lineBuildRemoteAtCommand (address16 command value address64 options : Bytes) (frameId : Byte) : Line :=
  { op := .encRemoteAt,
    args :=
      { addr16 := some address16, cmd := some command, value := some value, addr64 := some address64,
        options := some options, fid := some frameId } }

/-- `decodeStream(bytes)` (R86). -/
def lineDecodeStream (bytes : Bytes) : Line := { op := .decodeStream, args := { input := some bytes } }

/-- `checksum(payload)` (R86). -/
def lineChecksum (payload : Bytes) : Line := { op := .checksum, args := { input := some payload } }

/-- `lengthField(payload)` (R86). -/
def lineLengthField (payload : Bytes) : Line := { op := .lengthField, args := { input := some payload } }

/-- `hexToBytes(s)` (R86). -/
def lineHexToBytes (text : Bytes) : Line := { op := .hexToBytes, args := { input := some text } }

/-- `bytesToHex(b)` (R86). -/
def lineBytesToHex (bytes : Bytes) : Line := { op := .bytesToHex, args := { input := some bytes } }

/-- `isOk()` (R86): no operation; the `is_ok` field of a Response in RESULTS. -/
def resultIsOk : DecodeResult → Option Bool
  | .ok r => some r.isOk
  | .err _ _ => none

/-- The ASCII code of a character (R84, 93 G4). -/
def charByte (c : Char) : Option Byte :=
  if c.toNat < 128 then some (BitVec.ofNat 8 c.toNat) else none

/-- The ASCII codes of a text (R84). -/
def textBytes : List Char → Option Bytes
  | [] => some []
  | c :: rest =>
    match charByte c, textBytes rest with
    | some b, some s => some (b :: s)
    | _, _ => none

/-- One hex byte, two digits (R84), each of either case: DESIGN CHOICE, log entry 19. -/
def hexPair (a b : Char) : Option Byte :=
  match textBytes [a, b] with
  | some t =>
    match hexToBytes t with
    | some [v] => some v
    | _ => none
  | none => none

/-- A hex list, without its brackets: bytes of two digits, separated by blanks (R84); blanks beside the brackets and several blanks
together are the model's choice, log entry 19. -/
def hexList : List Char → Option Bytes
  | [] => some []
  | ' ' :: rest => hexList rest
  | a :: b :: rest =>
    if (rest.head?).getD ' ' = ' ' then
      match hexPair a b, hexList rest with
      | some v, some s => some (v :: s)
      | _, _ => none
    else none
  | [_] => none

/-- `<bytes>` at the head of a text: a hex list in brackets or a quoted ASCII string (R84), with what follows it. A string ends at
the next quotation mark and has no escapes: DESIGN CHOICE, log entry 19. -/
def bytesText : List Char → Option (Bytes × List Char)
  | '[' :: rest =>
    match hexList (rest.takeWhile (· != ']')), rest.dropWhile (· != ']') with
    | some b, ']' :: after => some (b, after)
    | _, _ => none
  | '"' :: rest =>
    match textBytes (rest.takeWhile (· != '"')), rest.dropWhile (· != '"') with
    | some b, '"' :: after => some (b, after)
    | _, _ => none
  | _ => none

/-- `<byte>` at the head of a text: one hex byte `0x52` (R84), with what follows it; the `x` is lower-case only, log entry 19. -/
def byteText : List Char → Option (Byte × List Char)
  | '0' :: 'x' :: a :: b :: after =>
    match hexPair a b with
    | some v => some (v, after)
    | none => none
  | _ => none

/-- A field of `LineArgs` given its value; an operand is named at most once: DESIGN CHOICE, log entry 19. -/
def setOnce {α : Type} (old : Option α) (new : α) : Option (Option α) :=
  match old with
  | none => some (some new)
  | some _ => none

/-- One `name=value` operand added to a line's operands (R84), whichever operands came before it. `in` takes either form of `<bytes>`
for every mnemonic, HEX_TO_BYTES among them. Both are DESIGN CHOICE, log entry 19. -/
def addOperand (name : List Char) (text : List Char) (a : LineArgs) : Option (LineArgs × List Char) :=
  if name = "fid".toList then
    match byteText text with
    | some (v, after) => (setOnce a.fid v).map fun f => ({ a with fid := f }, after)
    | none => none
  else
    match bytesText text with
    | none => none
    | some (v, after) =>
      if name = "in".toList then (setOnce a.input v).map fun f => ({ a with input := f }, after)
      else if name = "cmd".toList then (setOnce a.cmd v).map fun f => ({ a with cmd := f }, after)
      else if name = "value".toList then (setOnce a.value v).map fun f => ({ a with value := f }, after)
      else if name = "addr16".toList then (setOnce a.addr16 v).map fun f => ({ a with addr16 := f }, after)
      else if name = "addr64".toList then (setOnce a.addr64 v).map fun f => ({ a with addr64 := f }, after)
      else if name = "options".toList then (setOnce a.options v).map fun f => ({ a with options := f }, after)
      else none

/-- The operands of a line's text, each after at least one blank; `fuel` bounds their number. They may stand in any order, and blanks
may end the line: DESIGN CHOICE, log entry 19. -/
def operandsText : Nat → List Char → LineArgs → Option LineArgs
  | _, [], a => some a
  | 0, _ :: _, _ => none
  | fuel + 1, c :: cs, a =>
    if c = ' ' then
      match cs.dropWhile (· == ' ') with
      | [] => some a
      | text =>
        match text.dropWhile (· != '=') with
        | '=' :: value =>
          match addOperand (text.takeWhile (· != '=')) value a with
          | some (a', after) => operandsText fuel after a'
          | none => none
        | _ => none
    else none

/-- The mnemonics of R84, in capitals only (log entry 19). -/
def mnemonics : List (List Char × Instr) :=
  [("CHECKSUM".toList, .checksum), ("LENGTH_FIELD".toList, .lengthField), ("HEX_TO_BYTES".toList, .hexToBytes),
    ("BYTES_TO_HEX".toList, .bytesToHex), ("ENC_LOCAL_AT".toList, .encLocalAt), ("ENC_REMOTE_AT".toList, .encRemoteAt),
    ("ENC_QUEUED_AT".toList, .encQueuedAt), ("ENC_TX".toList, .encTx), ("ENC_EXPLICIT_TX".toList, .encExplicitTx),
    ("SPLIT".toList, .split), ("VALIDATE".toList, .validate), ("PARSE".toList, .parse),
    ("DECODE_STREAM".toList, .decodeStream)]

/-- The line a text spells, by the syntax of R84; `none` for a text that is no line. What R84 leaves open of the syntax is settled as
log entry 19 says: DESIGN CHOICE. -/
def assembleLine (text : List Char) : Option Line :=
  match mnemonics.lookup (text.takeWhile (· != ' ')) with
  | none => none
  | some op =>
    match operandsText text.length (text.dropWhile (· != ' ')) {} with
    | none => none
    | some a => if lineAllowed { op := op, args := a } then some { op := op, args := a } else none

end Sys2Proof.Machine
end

