-- ==== Sys2Proof/Safety.lean ====
section
/-! DEFINITION. Safety: the terms claims are stated in. The state after an operation that returned or raised; the invariants of
the codec's state; runs and their observations (70_reset_and_hazards.md R247). -/

namespace Sys2Proof.Safety

open Sys2Proof.Machine

/-- `s` after an operation that returned with these results (R200, R202): everything but the result registers and structures as
it was. -/
def returned (w : Written) (s : State) : State :=
  { s with
    res :=
      { rstat := 0x01, err := 0x00, errInfo := 0x00, out := w.out, cands := w.cands, base := w.base, results := w.results } }

/-- `s` after an operation that raised the error with this code and information (R200, R201): everything but the result registers
and structures as it was. -/
def raised (code info : Byte) (s : State) : State :=
  { s with res := { rstat := 0x03, err := code, errInfo := info, out := [], cands := [], base := none, results := [] } }

/-- The checksum byte of R100 written with the library's own sum: 0xFF less the byte sum modulo 256. -/
def checksumByte (s : Bytes) : Byte := BitVec.ofNat 8 (0xFF - (s.map BitVec.toNat).sum % 256)

/-- The candidate of some frame data (R75, R82): big-endian length, the data, its checksum. -/
def candidate (data : Bytes) : Bytes :=
  [BitVec.ofNat 8 (data.length / 256), BitVec.ofNat 8 (data.length % 256)] ++ data ++ [checksumByte data]

/-- The base record of a valid candidate whose frame data is `api :: body` (R30, R155). -/
def baseOf (api : Byte) (body : Bytes) : BaseRecord :=
  { declaredLength := BitVec.ofNat 16 (body.length + 1), checksum := checksumByte (api :: body), frameData := api :: body,
    apiId := api, frameId := body.head? }

/-- The state of the splitter's loop (R140): the segments closed so far and the current one. -/
def splitLoopStep (acc : List Bytes × Bytes) (b : Byte) : List Bytes × Bytes :=
  if b = 0x7E then (acc.1 ++ [acc.2], []) else (acc.1, acc.2 ++ [b])

/-- The splitter's loop as R140 writes it: the last segment is closed at the end and the first one dropped. -/
def splitLoop (buf : Bytes) : List Bytes :=
  ((buf.foldl splitLoopStep ([], [])).1 ++ [(buf.foldl splitLoopStep ([], [])).2]).drop 1

/-- A slice as a field of a response (R162): present when it lies wholly inside the frame data. -/
def fieldAt (p : Bytes) (a b : Nat) : Option Bytes := if b ≤ p.length then some ((p.drop a).take (b - a)) else none

/-- The lower-case hex digits in the order of their values (R104, R106). -/
def lowerDigits : Bytes :=
  [0x30, 0x31, 0x32, 0x33, 0x34, 0x35, 0x36, 0x37, 0x38, 0x39, 0x61, 0x62, 0x63, 0x64, 0x65, 0x66]

/-- The upper-case hex digits in the order of their values (R104). -/
def upperDigits : Bytes :=
  [0x30, 0x31, 0x32, 0x33, 0x34, 0x35, 0x36, 0x37, 0x38, 0x39, 0x41, 0x42, 0x43, 0x44, 0x45, 0x46]

/-- The byte `c` is a hex digit of value `d`, in either case (R104). -/
def IsDigit (c : Byte) (d : Nat) : Prop := lowerDigits[d]? = some c ∨ upperDigits[d]? = some c

/-- `lower` of R110: an upper-case hex letter becomes lower case, any other byte stays. -/
def lowerByte (c : Byte) : Byte := if 0x41 ≤ c.toNat ∧ c.toNat ≤ 0x46 then c + 0x20 else c

/-- The status kinds in the order of their status bytes (R166); any byte past the list is UNRECOGNIZED. -/
def kindOfStatus (s : Byte) : StatusKind :=
  ([.ok, .error, .invalidCommand, .invalidParameter, .noResponse] : List StatusKind).getD s.toNat .unrecognized

/-- `node_id` of R165: the bytes from `a` on, less one final 0x00; absent when there is none. -/
def nodeIdAt (p : Bytes) (a : Nat) : Option Bytes :=
  if p.length ≤ a then none
  else if (p.drop a).getLast? = some 0x00 then some (p.drop a).dropLast
  else some (p.drop a)

/-- A host access that observes something: a read, or a write to ISSUE (R247). -/
def observes : Access → Bool
  | .writeReg n _ => decide (n = 0x03)
  | .readReg _ => true
  | .writeBuf _ _ => false
  | .readBuf _ => true
  | .reset => false

/-- A host write to number `n` that issues nothing: a register write to a number other than ISSUE's, or a buffer write (R60). -/
def writesTo (n : Byte) : Access → Bool
  | .writeReg k _ => decide (k = n ∧ k ≠ 0x03)
  | .readReg _ => false
  | .writeBuf k _ => decide (k = n)
  | .readBuf _ => false
  | .reset => false

/-- Every request buffer and OUT, CANDS and RESULTS within `P_BUF_CAP` (R8, R28, R55). -/
def WithinCapacity (s : State) : Prop :=
  s.req.argCmd.length ≤ s.params.bufCap ∧ s.req.argValue.length ≤ s.params.bufCap ∧ s.req.argAddr16.length ≤ s.params.bufCap ∧
    s.req.argAddr64.length ≤ s.params.bufCap ∧ s.req.argOptions.length ≤ s.params.bufCap ∧
    s.req.input.length ≤ s.params.bufCap ∧ s.res.out.length ≤ s.params.bufCap ∧ s.res.cands.length ≤ s.params.bufCap ∧
    s.res.results.length ≤ s.params.bufCap

/-- The reserved bits of ARGCTL hold 0 (R23, R34). -/
def ReservedBitsZero (s : State) : Prop := s.req.argctl.toNat < 8

/-- RSTAT, ERR and ERR_INFO agree (R26, R27, R201, R202): no operation yet; or one returned; or one raised an error of the table
of R203, and then the result structures are empty. -/
def StatusConsistent (s : State) : Prop :=
  (s.res.rstat = 0x00 ∧ s.res = Results.reset) ∨ (s.res.rstat = 0x01 ∧ s.res.err = 0x00 ∧ s.res.errInfo = 0x00) ∨
    (s.res.rstat = 0x03 ∧ 1 ≤ s.res.err.toNat ∧ s.res.err.toNat ≤ 0x0A ∧ s.res.out = [] ∧ s.res.cands = [] ∧
      s.res.base = none ∧ s.res.results = [])

/-- No candidate contains the delimiter (R143). -/
def CandidatesClean (s : State) : Prop := ∀ c ∈ s.res.cands, (0x7E : Byte) ∉ c

/-- A Response exists only for a candidate whose length and checksum validate and whose api_id is 0x88 or 0x97 (R172). -/
def ResponsesValid (s : State) : Prop :=
  ∀ r, DecodeResult.ok r ∈ s.res.results →
    ∃ body : Bytes, body.length + 1 ≤ 0xFFFF ∧ r.raw = candidate (r.apiId :: body) ∧
      ((r.apiId = 0x88 ∧ r.kind = .localAtResp) ∨ (r.apiId = 0x97 ∧ r.kind = .remoteAtResp))

/-- A base record is that of a candidate that validates (R30, R156). -/
def BaseValid (s : State) : Prop :=
  ∀ b, s.res.base = some b → ∃ (api : Byte) (body : Bytes), body.length + 1 ≤ 0xFFFF ∧ b = baseOf api body

/-- The invariant of the codec's state. -/
def CodecInv (s : State) : Prop :=
  WithinCapacity s ∧ ReservedBitsZero s ∧ StatusConsistent s ∧ CandidatesClean s ∧ ResponsesValid s ∧ BaseValid s

/-- The run of a list of host accesses from the reset of an instance, one step each (R247). -/
def runFromReset (p : Params) (l : List Access) : Host.Outcome State Fault Refusal :=
  Host.Core.run Sys2Proof.core l.length (setPending l (State.resetOf p))

/-- The observation of a run (R247); none for a run with a refused access. -/
def observation (p : Params) (l : List Access) : Option (List Observation) :=
  match runFromReset p l with
  | .next s => some s.host.observed
  | .fault _ => none
  | .refused _ => none

end Sys2Proof.Safety
end

