-- ==== Sys2Proof/Certificates/Slice0/Obligations.lean ====
section
/-! DEFINITION. Obligations: what is to be proved of the model, each statement with the rules of spec/ it states or rests on. -/

open Sys2Proof Sys2Proof.Machine Sys2Proof.Safety

/-- R40: the state after reset, of every instance. -/
def Obligations.ResetGivesSpecValues : Prop :=
  ∀ p : Params,
    (State.resetOf p).req =
        { op := 0x00, argctl := 0x07, frameId := 0x00, argCmd := [], argValue := [], argAddr16 := [], argAddr64 := [],
          argOptions := [], input := [] } ∧
      (State.resetOf p).res =
        { rstat := 0x00, err := 0x00, errInfo := 0x00, out := [], cands := [], base := none, results := [] } ∧
      State.reset = State.resetOf Config.params

/-- The invariant holds after reset, of every instance. -/
def Obligations.ResetMeetsStateInvariant : Prop := (∀ p : Params, CodecInv (State.resetOf p)) ∧ CodecInv State.reset

/-- R7, R231: no step changes a parameter of the instance, a reset included. That the open parameters stand in the state is the
model's form of an argument, log entry 18. -/
def Obligations.ParametersNeverChange : Prop :=
  ∀ s t : State, step s = .next t → t.params = s.params

/-- Every step keeps the invariant of the codec's state (R8, R26, R34, R143, R172). -/
def Obligations.StepKeepsStateInvariant : Prop :=
  ∀ s t : State, CodecInv s → step s = .next t → CodecInv t

/-- A write to ISSUE, whatever value it writes, runs the instruction the decoder reads from OP; the step takes that access away and,
when the issue completes, adds the results to what the host has observed (R25, R245, R247). The pending accesses and the
observations in the state are the model's, log entry 3. -/
def Obligations.StepRunsDecodedInstruction : Prop :=
  ∀ (s : State) (v : Byte) (rest : List Access) (i : Instr),
    s.host.pending = .writeReg 0x03 v :: rest → decode [s.req.op] = .ok i → i.wellFormed = true →
      step s =
        match exec i (setPending rest s) with
        | .next t => .next (observe (.issued t.res) t)
        | .fault f => .fault f
        | .refused r => .refused r

/-- R205, with R74, R200 and R201: an issue with an op code the map does not list. That the host then observes the results is the
model's form of R247, log entry 3. -/
def Obligations.IllegalOpIssueIsRecorded : Prop :=
  ∀ (s : State) (v : Byte) (rest : List Access),
    s.host.pending = .writeReg 0x03 v :: rest →
      s.req.op.toNat ∉ [0x10, 0x11, 0x12, 0x13, 0x20, 0x21, 0x22, 0x23, 0x24, 0x30, 0x40, 0x41, 0x42] →
        step s =
          .next
            { req := s.req
              res :=
                { rstat := 0x03, err := 0x0A, errInfo := s.req.op, out := [], cands := [], base := none, results := [] }
              host :=
                { pending := rest
                  observed :=
                    s.host.observed ++
                      [.issued
                        { rstat := 0x03, err := 0x0A, errInfo := s.req.op, out := [], cands := [], base := none,
                          results := [] }] }
              params := s.params }

/-- Decoding the encoding of a well-formed instruction gives it back, for every operand (R70, R72, R75, R77). Frames as instructions
are the model's reading, log entry 4. -/
def Obligations.DecodeEncodeRoundTrip : Prop :=
  ∀ i : Instr, i.wellFormed = true → decode (encode i) = .ok i

/-- Bytes that decode to an instruction are exactly its encoding, and the instruction is well formed (R72, R75, R82). -/
def Obligations.DecodedBytesAreTheEncoding : Prop :=
  ∀ (w : Bytes) (i : Instr), decode w = .ok i → encode i = w ∧ i.wellFormed = true

/-- The legal op codes are the 13 of R72 (R74). -/
def Obligations.LegalOpCodesAreTheListed : Prop :=
  ∀ code : Byte,
    (∃ i, decodeOp code = .ok i) ↔
      code.toNat ∈ [0x10, 0x11, 0x12, 0x13, 0x20, 0x21, 0x22, 0x23, 0x24, 0x30, 0x40, 0x41, 0x42]

/-- A few words written out from the encoding tables (R72, R77) and frames from 95_test_vectors.md. -/
def Obligations.SampleWordsDecode : Prop :=
  decode [0b00010000] = .ok .checksum ∧ decode [0b00100001] = .ok .encRemoteAt ∧ decode [0b00110000] = .ok .split ∧
    decode [0b01000010] = .ok .decodeStream ∧ decode [0x08] = .error (.illegalOp 0x08) ∧
    decode [0x7E, 0x00, 0x04, 0x08, 0x01, 0x4E, 0x44, 0x64] = .ok (.frameLocalAtCommand [0x01, 0x4E, 0x44]) ∧
    decode [0x7E, 0x00, 0x05, 0x88, 0x01, 0x4E, 0x44, 0x00, 0xE4] =
      .ok (.frameLocalAtResponse [0x01, 0x4E, 0x44, 0x00]) ∧
    decode [0x7E, 0x00, 0x02, 0x97, 0x05, 0x63] = .ok (.frameRemoteAtResponse [0x05]) ∧
    decode [0x7E, 0x00, 0x02, 0x8A, 0x00, 0x75] = .error (.unknownApiId 0x8A)

/-- R101, with R55: CHECKSUM, and its refusal by an instance whose OUT cannot hold one byte. -/
def Obligations.ChecksumMeaning : Prop :=
  decode [0x10] = .ok .checksum ∧
    ∀ s : State,
      (1 ≤ s.params.bufCap → exec .checksum s = .next (returned { out := [checksumByte s.req.input] } s)) ∧
        (s.params.bufCap < 1 → exec .checksum s = .refused .resultOverCapacity)

/-- R103, with R55: LENGTH_FIELD, and its refusal by an instance whose OUT cannot hold two bytes. -/
def Obligations.LengthFieldMeaning : Prop :=
  decode [0x11] = .ok .lengthField ∧
    ∀ s : State,
      (s.req.input.length ≤ 0xFFFF → 2 ≤ s.params.bufCap →
        exec .lengthField s =
          .next
            (returned
              { out := [BitVec.ofNat 8 (s.req.input.length / 256), BitVec.ofNat 8 (s.req.input.length % 256)] } s)) ∧
      (s.req.input.length ≤ 0xFFFF → s.params.bufCap < 2 → exec .lengthField s = .refused .resultOverCapacity) ∧
      (0xFFFF < s.req.input.length → exec .lengthField s = .next (raised 0x02 0x00 s))

/-- R105: HEX_TO_BYTES on a text of hex digits of even length, as long as a buffer can hold, and on any other text. The spec marks
the digits' ASCII codes and the order of the two digits as general knowledge, log entry 11. -/
def Obligations.HexToBytesMeaning : Prop :=
  decode [0x12] = .ok .hexToBytes ∧
    ∀ s : State,
      (s.req.input.length % 2 = 0 → (∀ c ∈ s.req.input, ∃ d, IsDigit c d) → s.req.input.length ≤ s.params.bufCap →
        ∃ out : Bytes,
          2 * out.length = s.req.input.length ∧
            (∀ (k : Nat) (b hi lo : Byte) (h l : Nat),
              out[k]? = some b → s.req.input[2 * k]? = some hi → s.req.input[2 * k + 1]? = some lo → IsDigit hi h →
                IsDigit lo l → b.toNat = 16 * h + l) ∧
            exec .hexToBytes s = .next (returned { out := out } s)) ∧
      ((s.req.input.length % 2 = 1 ∨ ∃ c ∈ s.req.input, ∀ d, ¬IsDigit c d) →
        exec .hexToBytes s = .next (raised 0x01 0x00 s))

/-- R108, with R55: BYTES_TO_HEX on a string whose text fits a buffer, and its refusal otherwise. The spec marks the digits' ASCII
codes and the order of the two digits as general knowledge, log entry 11. -/
def Obligations.BytesToHexMeaning : Prop :=
  decode [0x13] = .ok .bytesToHex ∧
    ∀ s : State,
      (2 * s.req.input.length ≤ s.params.bufCap →
        exec .bytesToHex s =
          .next
            (returned
              { out :=
                  s.req.input.flatMap fun b =>
                    [lowerDigits.getD (b.toNat / 16) 0x00, lowerDigits.getD (b.toNat % 16) 0x00] }
              s)) ∧
      (s.params.bufCap < 2 * s.req.input.length → exec .bytesToHex s = .refused .resultOverCapacity)

/-- R109: the four checksum laws, which the spec marks as derived from R100. -/
def Obligations.ChecksumLaws : Prop :=
  (∀ p : Bytes, (sum8 p + (checksum p).toNat) % 256 = 0xFF) ∧
    (∀ p : Bytes, checksum (p ++ [checksum p]) = 0x00) ∧
    (∀ (pre post : Bytes) (x y : Byte), x ≠ y → checksum (pre ++ x :: post) ≠ checksum (pre ++ y :: post)) ∧
    (∀ (pre post : Bytes) (x y : Byte), checksum (pre ++ x :: y :: post) = checksum (pre ++ y :: x :: post))

/-- R110: the two hex laws, the second with its consequence for upper-case digits; the spec marks them as derived from R104 and
R106. -/
def Obligations.HexConversionLaws : Prop :=
  (∀ s : Bytes, hexToBytes (bytesToHex s) = some s) ∧
    (∀ t s : Bytes, hexToBytes t = some s →
      bytesToHex s = t.map lowerByte ∧ (bytesToHex s = t ↔ ∀ c ∈ t, ¬(0x41 ≤ c.toNat ∧ c.toNat ≤ 0x46)))

/-- R122 with R120 and R121, and R55: ENC_LOCAL_AT, its two errors in their order, the frame it builds, and the refusal of a frame
longer than OUT can hold. -/
def Obligations.EncLocalAtMeaning : Prop :=
  decode [0x20] = .ok .encLocalAt ∧
    ∀ s : State,
      let fid : Byte := if s.req.argctl.getLsbD 0 then 0x01 else s.req.frameId
      let data : Bytes := [0x08, fid] ++ s.req.argCmd ++ s.req.argValue
      (s.req.argCmd.length ≠ 2 → exec .encLocalAt s = .next (raised 0x03 0x00 s)) ∧
        (s.req.argCmd.length = 2 → 0xFFFF < 4 + s.req.argValue.length →
          exec .encLocalAt s = .next (raised 0x02 0x00 s)) ∧
        (s.req.argCmd.length = 2 → 4 + s.req.argValue.length ≤ 0xFFFF → 8 + s.req.argValue.length ≤ s.params.bufCap →
          exec .encLocalAt s = .next (returned { out := 0x7E :: candidate data } s)) ∧
        (s.req.argCmd.length = 2 → 4 + s.req.argValue.length ≤ 0xFFFF → s.params.bufCap < 8 + s.req.argValue.length →
          exec .encLocalAt s = .refused .resultOverCapacity)

/-- R124 with R120, R121 and R207, and R55: ENC_REMOTE_AT, the first of its errors that applies, the frame it builds, and the
refusal of a frame longer than OUT can hold. -/
def Obligations.EncRemoteAtMeaning : Prop :=
  decode [0x21] = .ok .encRemoteAt ∧
    ∀ s : State,
      let fid : Byte := if s.req.argctl.getLsbD 0 then 0x01 else s.req.frameId
      let a64 : Bytes := if s.req.argctl.getLsbD 1 then List.replicate 8 0x00 else s.req.argAddr64
      let opt : Bytes := if s.req.argctl.getLsbD 2 then [0x02] else s.req.argOptions
      let data : Bytes := [0x17, fid] ++ a64 ++ s.req.argAddr16 ++ opt ++ s.req.argCmd ++ s.req.argValue
      let error : Option (Byte × Byte) :=
        if s.req.argCmd.length ≠ 2 then some (0x03, 0x00)
        else if s.req.argAddr16.length ≠ 2 then some (0x04, 0x01)
        else if a64.length ≠ 8 then some (0x04, 0x02)
        else if opt.length ≠ 1 then some (0x04, 0x03)
        else if 0xFFFF < 15 + s.req.argValue.length then some (0x02, 0x00)
        else none
      (∀ code info, error = some (code, info) → exec .encRemoteAt s = .next (raised code info s)) ∧
        (error = none → 19 + s.req.argValue.length ≤ s.params.bufCap →
          exec .encRemoteAt s = .next (returned { out := 0x7E :: candidate data } s)) ∧
        (error = none → s.params.bufCap < 19 + s.req.argValue.length →
          exec .encRemoteAt s = .refused .resultOverCapacity)

/-- R123, which the spec marks as derived: what a successful ENC_LOCAL_AT leaves in OUT, position by position. -/
def Obligations.LocalFramePositions : Prop :=
  ∀ s t : State, exec .encLocalAt s = .next t → t.res.err = 0x00 →
    let out := t.res.out
    let n := s.req.argValue.length
    out[0]? = some 0x7E ∧
      (out.drop 1).take 2 = [BitVec.ofNat 8 ((4 + n) / 256), BitVec.ofNat 8 ((4 + n) % 256)] ∧ 4 + n ≤ 0xFFFF ∧
        out[3]? = some 0x08 ∧ out[4]? = some (if s.req.argctl.getLsbD 0 then 0x01 else s.req.frameId) ∧
          (out.drop 5).take 2 = s.req.argCmd ∧ (out.drop 7).take n = s.req.argValue ∧
            out[out.length - 1]? = some (checksumByte ((out.drop 3).take (out.length - 1 - 3))) ∧ out.length = 8 + n

/-- R125, which the spec marks as derived: what a successful ENC_REMOTE_AT leaves in OUT, position by position. -/
def Obligations.RemoteFramePositions : Prop :=
  ∀ s t : State, exec .encRemoteAt s = .next t → t.res.err = 0x00 →
    let out := t.res.out
    let n := s.req.argValue.length
    out.length = 19 + n ∧ out[3]? = some 0x17 ∧
      out[4]? = some (if s.req.argctl.getLsbD 0 then 0x01 else s.req.frameId) ∧
        (out.drop 5).take 8 = (if s.req.argctl.getLsbD 1 then List.replicate 8 0x00 else s.req.argAddr64) ∧
          (out.drop 13).take 2 = s.req.argAddr16 ∧
            (out.drop 15).take 1 = (if s.req.argctl.getLsbD 2 then [0x02] else s.req.argOptions) ∧
              (out.drop 16).take 2 = s.req.argCmd ∧ (out.drop 18).take n = s.req.argValue ∧
                (out.drop 1).take 2 = [BitVec.ofNat 8 ((15 + n) / 256), BitVec.ofNat 8 ((15 + n) % 256)] ∧
                  15 + n ≤ 0xFFFF ∧
                    out[out.length - 1]? = some (checksumByte ((out.drop 3).take (out.length - 1 - 3)))

/-- R127, R128, R129: the three rejected variants always raise NotImplemented, whatever the operands. -/
def Obligations.RejectedVariantsRaiseNotImplemented : Prop :=
  decode [0x22] = .ok .encQueuedAt ∧ decode [0x23] = .ok .encTx ∧ decode [0x24] = .ok .encExplicitTx ∧
    ∀ s : State,
      exec .encQueuedAt s = .next (raised 0x05 0x00 s) ∧ exec .encTx s = .next (raised 0x05 0x00 s) ∧
        exec .encExplicitTx s = .next (raised 0x05 0x00 s)

/-- R77: a frame ENC_LOCAL_AT builds is a Local AT Command frame, one ENC_REMOTE_AT builds a Remote AT Command frame, and both
are what the encoder writes for a well-formed one. Frames as instructions are the model's reading, log entry 4. -/
def Obligations.BuildersBuildTheirFrameTypes : Prop :=
  (∀ s t : State, exec .encLocalAt s = .next t → t.res.err = 0x00 →
    ∃ body, (Instr.frameLocalAtCommand body).wellFormed = true ∧ t.res.out = encode (.frameLocalAtCommand body) ∧
      decode t.res.out = .ok (.frameLocalAtCommand body)) ∧
  (∀ s t : State, exec .encRemoteAt s = .next t → t.res.err = 0x00 →
    ∃ body, (Instr.frameRemoteAtCommand body).wellFormed = true ∧ t.res.out = encode (.frameRemoteAtCommand body) ∧
      decode t.res.out = .ok (.frameRemoteAtCommand body))

/-- R141 with the loop of R140: SPLIT, for an IN a buffer can hold. -/
def Obligations.SplitMeaning : Prop :=
  decode [0x30] = .ok .split ∧
    ∀ s : State, s.req.input.length ≤ s.params.bufCap →
      exec .split s = .next (returned { cands := splitLoop s.req.input } s)

/-- R143: the five split laws, which the spec marks as derived from R140. -/
def Obligations.SplitLaws : Prop :=
  (∀ buf : Bytes, (splitFrames buf).length = buf.count 0x7E) ∧
    (∀ buf : Bytes, ∀ c ∈ splitFrames buf, (0x7E : Byte) ∉ c) ∧
    (∀ buf : Bytes, buf = buf.takeWhile (· != 0x7E) ++ (splitFrames buf).flatMap fun c => 0x7E :: c) ∧
    (∀ a b : Bytes, (0x7E : Byte) ∉ a → (0x7E : Byte) ∉ b → splitFrames ((0x7E :: a) ++ (0x7E :: b)) = [a, b]) ∧
    (∀ n buf : Bytes, (0x7E : Byte) ∉ n → buf.head? = some 0x7E → splitFrames (n ++ buf) = splitFrames buf)

/-- R142, R233: a frame with 0x7E after its start byte is cut into two candidates or more, none of which is the frame. -/
def Obligations.DelimiterInsideFrameBreaksIt : Prop :=
  ∀ c : Bytes, (0x7E : Byte) ∈ c →
    2 ≤ (splitFrames (0x7E :: c)).length ∧ c ∉ splitFrames (0x7E :: c)

/-- R156 with R150 to R155: VALIDATE, its errors in their order, and the base record. -/
def Obligations.ValidateMeaning : Prop :=
  decode [0x40] = .ok .validate ∧
    ∀ s : State,
      let c := s.req.input
      let p : Bytes := (c.drop 2).dropLast
      exec .validate s =
        .next
          (if c.length < 4 then raised 0x06 0x00 s
          else if p.length ≠ 256 * (c.getD 0 0x00).toNat + (c.getD 1 0x00).toNat then raised 0x07 0x00 s
          else if checksumByte p ≠ c.getLastD 0x00 then raised 0x08 0x00 s
          else
            returned
              { base :=
                  some
                    { declaredLength := BitVec.ofNat 16 p.length, checksum := checksumByte p, frameData := p,
                      apiId := p.headD 0x00, frameId := p[1]? } }
              s)

/-- R168 with R158 and R160, and R55: PARSE, the first of its errors that applies, the one response it writes, under the layout of
the instance, and its refusal by an instance whose RESULTS cannot hold one element. -/
def Obligations.ParseMeaning : Prop :=
  decode [0x41] = .ok .parse ∧
    ∀ s : State,
      let c := s.req.input
      let p : Bytes := (c.drop 2).dropLast
      let api : Byte := p.headD 0x00
      let error : Option (Byte × Byte) :=
        if c.length < 4 then some (0x06, 0x00)
        else if p.length ≠ 256 * (c.getD 0 0x00).toNat + (c.getD 1 0x00).toNat then some (0x07, 0x00)
        else if checksumByte p ≠ c.getLastD 0x00 then some (0x08, 0x00)
        else if api ≠ 0x97 ∧ api ≠ 0x88 then some (0x09, api)
        else none
      let response : Response :=
        if api = 0x97 then remoteResponse s.params.respLayout c (baseOf 0x97 p.tail)
        else localResponse s.params.respLayout c (baseOf 0x88 p.tail)
      (∀ code info, error = some (code, info) → exec .parse s = .next (raised code info s)) ∧
        (error = none → 1 ≤ s.params.bufCap → exec .parse s = .next (returned { results := [.ok response] } s)) ∧
        (error = none → s.params.bufCap < 1 → exec .parse s = .refused .resultOverCapacity)

/-- R169 with R140 and R206: DECODE_STREAM, for an IN a buffer can hold; each element of RESULTS is what PARSE of that candidate
comes to. -/
def Obligations.DecodeStreamMeaning : Prop :=
  decode [0x42] = .ok .decodeStream ∧
    ∀ s : State, s.req.input.length ≤ s.params.bufCap →
      ∃ results : List DecodeResult,
        exec .decodeStream s = .next (returned { cands := splitLoop s.req.input, results := results } s) ∧
          results.length = (splitLoop s.req.input).length ∧
          ∀ (k : Nat) (c : Bytes), (splitLoop s.req.input)[k]? = some c →
            ∃ t, exec .parse { s with req := { s.req with input := c } } = .next t ∧
              ((t.res.err = 0x00 ∧ ∃ r, t.res.results = [r] ∧ results[k]? = some r) ∨
                (t.res.err ≠ 0x00 ∧ results[k]? = some (.err t.res.err t.res.errInfo)))

/-- R159 and R161 to R167: the fields of a Response of either kind under either layout. The spec marks the status bytes 0x01 to
0x04 and the layout LAYOUT_WIRE as general knowledge, log entries 10 and 12. -/
def Obligations.ResponseFieldsByLayout : Prop :=
  ∀ body : Bytes,
    let p : Bytes := 0x97 :: body
    let q : Bytes := 0x88 :: body
    (remoteResponse .doc (candidate p) (baseOf 0x97 body) =
          { kind := .remoteAtResp, raw := candidate p, apiId := 0x97, frameId := body.head?, commandPayload := body.drop 1,
            command := fieldAt p 13 14, status := p[12]?, statusKind := p[12]?.map kindOfStatus,
            isOk := decide (p[12]? = some 0x00), address16 := fieldAt p 10 12, address64 := fieldAt p 2 10,
            signalStrength := p[14]?, nodeId := none } ∧
        remoteResponse .wire (candidate p) (baseOf 0x97 body) =
          { kind := .remoteAtResp, raw := candidate p, apiId := 0x97, frameId := body.head?, commandPayload := body.drop 1,
            command := fieldAt p 12 14, status := p[14]?, statusKind := p[14]?.map kindOfStatus,
            isOk := decide (p[14]? = some 0x00), address16 := fieldAt p 10 12, address64 := fieldAt p 2 10,
            signalStrength := p[15]?, nodeId := none }) ∧
      localResponse .doc (candidate q) (baseOf 0x88 body) =
        { kind := .localAtResp, raw := candidate q, apiId := 0x88, frameId := body.head?, commandPayload := body.drop 1,
          command := fieldAt q 1 2, status := q[3]?, statusKind := q[3]?.map kindOfStatus,
          isOk := decide (q[3]? = some 0x00), address16 := fieldAt q 4 6, address64 := fieldAt q 6 14,
          signalStrength := q[14]?, nodeId := nodeIdAt q 15 } ∧
      localResponse .wire (candidate q) (baseOf 0x88 body) =
        { kind := .localAtResp, raw := candidate q, apiId := 0x88, frameId := body.head?, commandPayload := body.drop 1,
          command := fieldAt q 2 4, status := q[4]?, statusKind := q[4]?.map kindOfStatus,
          isOk := decide (q[4]? = some 0x00), address16 := fieldAt q 5 7, address64 := fieldAt q 7 15,
          signalStrength := q[15]?, nodeId := nodeIdAt q 16 }

/-- R158: whether the parser succeeds, and with which error it fails, does not depend on the layout; nor do the kind and the base
fields of the Response (R159). -/
def Obligations.ParseOutcomeIgnoresLayout : Prop :=
  ∀ c : Bytes,
    (∃ f, parseCandidate .doc c = .error f ∧ parseCandidate .wire c = .error f) ∨
      (∃ r q, parseCandidate .doc c = .ok r ∧ parseCandidate .wire c = .ok q ∧ r.kind = q.kind ∧ r.raw = q.raw ∧
        r.apiId = q.apiId ∧ r.frameId = q.frameId ∧ r.commandPayload = q.commandPayload)

/-- R157, which the spec marks as derived: one flipped bit of a candidate that validates makes it fail, with LengthMismatch in the declared length and with
ChecksumMismatch in the frame data or the checksum. -/
def Obligations.TamperedCandidateFails : Prop :=
  ∀ (s t : State), exec .validate s = .next t → t.res.err = 0x00 →
    ∀ k bit : Nat, k < s.req.input.length → bit < 8 →
      let flipped := s.req.input.set k (s.req.input.getD k 0x00 ^^^ BitVec.ofNat 8 (2 ^ bit))
      let s' : State := { s with req := { s.req with input := flipped } }
      exec .validate s' = .next (raised (if k < 2 then 0x07 else 0x08) 0x00 s')

/-- R234, R151, R153: a frame cut short anywhere is too short or fails its length check. -/
def Obligations.PartialFrameFails : Prop :=
  ∀ (data : Bytes) (k : Nat) (s : State), data.length ≤ 0xFFFF → k < (candidate data).length →
    let s' : State := { s with req := { s.req with input := (candidate data).take k } }
    exec .validate s' = .next (raised (if k < 4 then 0x06 else 0x07) 0x00 s')

/-- R171, which the spec marks as derived: the frame of a successful ENC_LOCAL_AT, without its start byte, validates and gives back what it was built of; PARSE of
it is UnknownApiId(0x08); and it survives the splitter exactly when no byte of it is 0x7E. -/
def Obligations.LocalAtRoundTrip : Prop :=
  ∀ s t : State, exec .encLocalAt s = .next t → t.res.err = 0x00 →
    let c : Bytes := t.res.out.drop 1
    let s' : State := { s with req := { s.req with input := c } }
    (∃ b : BaseRecord,
      exec .validate s' = .next (returned { base := some b } s') ∧ b.apiId = 0x08 ∧
        b.frameId = some (if s.req.argctl.getLsbD 0 then 0x01 else s.req.frameId) ∧
        (b.frameData.drop 2).take 2 = s.req.argCmd ∧ b.frameData.drop 4 = s.req.argValue ∧
        b.declaredLength.toNat = 4 + s.req.argValue.length) ∧
      exec .parse s' = .next (raised 0x09 0x08 s') ∧ (splitLoop t.res.out = [c] ↔ (0x7E : Byte) ∉ c)

/-- R170, which the spec marks as derived: an element of RESULTS depends on its own candidate alone (and the layout, R161). -/
def Obligations.StreamResultsAreIndependent : Prop :=
  ∀ s₁ s₂ t₁ t₂ : State, s₁.params.respLayout = s₂.params.respLayout → exec .decodeStream s₁ = .next t₁ →
    exec .decodeStream s₂ = .next t₂ →
      t₁.res.results.length = t₁.res.cands.length ∧
        ∀ j k : Nat, t₁.res.cands[j]? = t₂.res.cands[k]? → t₁.res.results[j]? = t₂.res.results[k]?

/-- R172, which the spec marks as derived: a Response is written exactly for a candidate whose length and checksum validate and whose api_id is 0x88 or 0x97. -/
def Obligations.ResponseExactlyForValidCandidate : Prop :=
  let good (c : Bytes) : Prop :=
    ∃ (api : Byte) (body : Bytes), body.length + 1 ≤ 0xFFFF ∧ c = candidate (api :: body) ∧ (api = 0x88 ∨ api = 0x97)
  (∀ s t : State, exec .parse s = .next t → ((∃ r, DecodeResult.ok r ∈ t.res.results) ↔ good s.req.input)) ∧
    (∀ s t : State, exec .decodeStream s = .next t → ∀ (k : Nat) (c : Bytes), t.res.cands[k]? = some c →
      ((∃ r, t.res.results[k]? = some (.ok r)) ↔ good c))

/-- R77, R160: a received command frame is not decoded (its meaning is log entry 4's). -/
def Obligations.CommandFramesAreNotDecoded : Prop :=
  ∀ (body : Bytes) (s : State), body.length + 1 ≤ 0xFFFF →
    exec (.frameLocalAtCommand body) s = .next (raised 0x09 0x08 s) ∧
      exec (.frameRemoteAtCommand body) s = .next (raised 0x09 0x17 s)

/-- R77, R163, R164, and R55: a received response frame is decoded to its Response, or refused by an instance whose RESULTS cannot
hold one element (its meaning is log entry 4's). -/
def Obligations.ResponseFramesAreDecoded : Prop :=
  ∀ (body : Bytes) (s : State), body.length + 1 ≤ 0xFFFF →
    (1 ≤ s.params.bufCap →
      exec (.frameLocalAtResponse body) s =
          .next
            (returned
              { results := [.ok (localResponse s.params.respLayout (candidate (0x88 :: body)) (baseOf 0x88 body))] } s) ∧
        exec (.frameRemoteAtResponse body) s =
          .next
            (returned
              { results := [.ok (remoteResponse s.params.respLayout (candidate (0x97 :: body)) (baseOf 0x97 body))] }
              s)) ∧
    (s.params.bufCap < 1 →
      exec (.frameLocalAtResponse body) s = .refused .resultOverCapacity ∧
        exec (.frameRemoteAtResponse body) s = .refused .resultOverCapacity)

/-- PARSE of a frame without its start byte is the meaning of that frame (R158, R168; log entry 4). -/
def Obligations.ParseRunsReceivedFrame : Prop :=
  ∀ (i : Instr) (s : State), i.wellFormed = true → encode i = 0x7E :: s.req.input → exec .parse s = exec i s

/-- R200, R201, R202, R208: every operation leaves the request and the host's side as they were; it either returned, or raised one
error of the table and shows no partial result. -/
def Obligations.OperationsArePrecise : Prop :=
  ∀ (i : Instr) (s t : State), exec i s = .next t →
    t.req = s.req ∧ t.host = s.host ∧ t.params = s.params ∧
      ((t.res.rstat = 0x01 ∧ t.res.err = 0x00 ∧ t.res.errInfo = 0x00) ∨
        ∃ code info : Byte, 1 ≤ code.toNat ∧ code.toNat ≤ 0x0A ∧ t = raised code info s)

/-- R203, R27: which operation can leave which error number, and which numbers come with information. The received frames among
them are the model's reading, log entries 4 and 16. -/
def Obligations.ErrorsByOperation : Prop :=
  ∀ (i : Instr) (s t : State), exec i s = .next t →
    let isFrame := 1 < (encode i).length
    (t.res.err = 0x01 → i = .hexToBytes) ∧
      (t.res.err = 0x02 → i ∈ [Instr.lengthField, .encLocalAt, .encRemoteAt]) ∧
        (t.res.err = 0x03 → i ∈ [Instr.encLocalAt, .encRemoteAt]) ∧ (t.res.err = 0x04 → i = .encRemoteAt) ∧
          (t.res.err = 0x05 → i ∈ [Instr.encQueuedAt, .encTx, .encExplicitTx]) ∧
            (t.res.err = 0x06 → i ∈ [Instr.validate, .parse]) ∧
              (t.res.err = 0x07 → i ∈ [Instr.validate, .parse] ∨ isFrame) ∧
                (t.res.err = 0x08 → i ∈ [Instr.validate, .parse]) ∧ (t.res.err = 0x09 → i = .parse ∨ isFrame) ∧
                  t.res.err ≠ 0x0A ∧ (t.res.err ≠ 0x04 → t.res.err ≠ 0x09 → t.res.errInfo = 0x00) ∧
                    (t.res.err = 0x04 → t.res.errInfo ∈ ([0x01, 0x02, 0x03] : List Byte)) ∧
                      (t.res.err = 0x09 → t.res.errInfo ≠ 0x88 ∧ t.res.errInfo ≠ 0x97)

/-- R28 to R31: each result structure is written by its own operations only and left empty by every other. That a received response
frame writes RESULTS is the model's reading, log entry 4. -/
def Obligations.StructuresWrittenByTheirOperations : Prop :=
  ∀ (i : Instr) (s t : State), exec i s = .next t →
    (i ∉ [Instr.checksum, .lengthField, .hexToBytes, .bytesToHex, .encLocalAt, .encRemoteAt] → t.res.out = []) ∧
      (i ∉ [Instr.split, .decodeStream] → t.res.cands = []) ∧ (i ≠ .validate → t.res.base = none) ∧
      (i = .parse ∨ i = .decodeStream ∨ (∃ body, i = .frameLocalAtResponse body) ∨
        (∃ body, i = .frameRemoteAtResponse body) ∨ t.res.results = [])

/-- R39, which the spec marks as derived: the results of an operation are a function of the request and the parameters
alone. That it holds of received frames too is about the model's reading of them, log entry 4. -/
def Obligations.ResultsDependOnRequestOnly : Prop :=
  ∀ (i : Instr) (s₁ s₂ : State), s₁.req = s₂.req → s₁.params = s₂.params →
    (∀ t₁, exec i s₁ = .next t₁ → ∃ t₂, exec i s₂ = .next t₂ ∧ t₂.res = t₁.res) ∧
      (∀ r, exec i s₁ = .refused r → exec i s₂ = .refused r)

/-- R55: with every buffer within capacity, whichever capacity that is, the issues that are refused are exactly those whose OUT or
RESULTS would not fit; every other issue answers a next state. R55 speaks of issues. That a received frame is an instruction too, so
that a received response frame is refused by a capacity below 1, is the model's reading, log entry 4; that one of more than 0xFFFF
bytes of frame data still answers a next state is the model's inference, log entry 16. -/
def Obligations.RefusedIssuesAreTheOverfull : Prop :=
  ∀ (i : Instr) (s : State), WithinCapacity s →
    let cap := s.params.bufCap
    let overfull : Prop :=
      (i = .checksum ∧ cap < 1) ∨ (i = .lengthField ∧ s.req.input.length ≤ 0xFFFF ∧ cap < 2) ∨
        (i = .bytesToHex ∧ cap < 2 * s.req.input.length) ∨
        (i = .encLocalAt ∧ s.req.argCmd.length = 2 ∧ 4 + s.req.argValue.length ≤ 0xFFFF ∧ cap < 8 + s.req.argValue.length) ∨
        (i = .encRemoteAt ∧ s.req.argCmd.length = 2 ∧ s.req.argAddr16.length = 2 ∧
          (s.req.argctl.getLsbD 1 = true ∨ s.req.argAddr64.length = 8) ∧
          (s.req.argctl.getLsbD 2 = true ∨ s.req.argOptions.length = 1) ∧ 15 + s.req.argValue.length ≤ 0xFFFF ∧
          cap < 19 + s.req.argValue.length) ∨
        ((∃ body, (i = .frameLocalAtResponse body ∨ i = .frameRemoteAtResponse body) ∧ body.length + 1 ≤ 0xFFFF) ∧ cap < 1)
    (overfull → exec i s = .refused .resultOverCapacity) ∧ (¬overfull → ∃ t, exec i s = .next t)

/-- R8, R55: in an instance with the recommended capacity and every buffer within capacity, the only issue that can be refused is a
BYTES_TO_HEX whose text does not fit. What it says of received frames is the model's reading, log entries 4 and 16. -/
def Obligations.OnlyHexTextOverflows : Prop :=
  ∀ (i : Instr) (s : State), 0x10003 ≤ s.params.bufCap → WithinCapacity s →
    (∃ t, exec i s = .next t) ∨
      (i = .bytesToHex ∧ s.params.bufCap < 2 * s.req.input.length ∧ exec i s = .refused .resultOverCapacity)

/-- R21, R34, R35, R60: WriteReg of every number but ISSUE, as a step (log entry 3). For the numbers of buffers and structures this is the model's reading,
log entry 6. -/
def Obligations.WriteRegMap : Prop :=
  ∀ (s : State) (n v : Byte) (rest : List Access), s.host.pending = .writeReg n v :: rest → n ≠ 0x03 →
    step s =
      .next
        { req :=
            if n = 0x00 then { s.req with op := v }
            else if n = 0x01 then { s.req with argctl := v &&& 0x07 }
            else if n = 0x02 then { s.req with frameId := v }
            else s.req
          res := s.res
          host := { pending := rest, observed := s.host.observed }
          params := s.params }

/-- R21, R25, R34, R60: what ReadReg returns, and that it changes nothing else. For the numbers of buffers and structures this is
the model's reading, log entry 6. -/
def Obligations.ReadRegMap : Prop :=
  ∀ (s : State) (n : Byte) (rest : List Access), s.host.pending = .readReg n :: rest →
    let value : Byte :=
      if n = 0x00 then s.req.op
      else if n = 0x01 then s.req.argctl &&& 0x07
      else if n = 0x02 then s.req.frameId
      else if n = 0x04 then s.res.rstat &&& 0x03
      else if n = 0x05 then s.res.err
      else if n = 0x06 then s.res.errInfo
      else 0x00
    step s =
      .next
        { req := s.req, res := s.res, params := s.params,
          host := { pending := rest, observed := s.host.observed ++ [.register n value] } }

/-- R21, R35, R55, R60: WriteBuf. For the over-long write to OUT and for the numbers of registers this is the model's reading, log
entries 7 and 6. -/
def Obligations.WriteBufMap : Prop :=
  ∀ (s : State) (n : Byte) (c : Bytes) (rest : List Access), s.host.pending = .writeBuf n c :: rest →
    step s =
      if n ∈ ([0x10, 0x11, 0x12, 0x13, 0x14, 0x15, 0x18] : List Byte) ∧ s.params.bufCap < c.length then
        .refused (.writeOverCapacity n)
      else
        .next
          { req :=
              if n = 0x10 then { s.req with argCmd := c }
              else if n = 0x11 then { s.req with argValue := c }
              else if n = 0x12 then { s.req with argAddr16 := c }
              else if n = 0x13 then { s.req with argAddr64 := c }
              else if n = 0x14 then { s.req with argOptions := c }
              else if n = 0x15 then { s.req with input := c }
              else s.req
            res := s.res
            host := { pending := rest, observed := s.host.observed }
            params := s.params }

/-- R21, R54, R60: what ReadBuf returns, and that it changes nothing else. For the numbers of registers this is the model's
reading, log entry 6. -/
def Obligations.ReadBufMap : Prop :=
  ∀ (s : State) (n : Byte) (rest : List Access), s.host.pending = .readBuf n :: rest →
    let content : Content :=
      if n = 0x10 then .bytes s.req.argCmd
      else if n = 0x11 then .bytes s.req.argValue
      else if n = 0x12 then .bytes s.req.argAddr16
      else if n = 0x13 then .bytes s.req.argAddr64
      else if n = 0x14 then .bytes s.req.argOptions
      else if n = 0x15 then .bytes s.req.input
      else if n = 0x18 then .bytes s.res.out
      else if n = 0x19 then .cands s.res.cands
      else if n = 0x1A then .base s.res.base
      else if n = 0x1B then .results s.res.results
      else .bytes []
    step s =
      .next
        { req := s.req, res := s.res, params := s.params,
          host := { pending := rest, observed := s.host.observed ++ [.buffer n content] } }

/-- R232: the order of host writes to different numbers before an issue does not matter (as steps, log entry 3). -/
def Obligations.HostWritesCommute : Prop :=
  ∀ (s t : State) (a b : Access) (n m : Byte), writesTo n a = true → writesTo m b = true → n ≠ m →
    (Host.Core.run Sys2Proof.core 2 (setPending [a, b] s) = .next t ↔
      Host.Core.run Sys2Proof.core 2 (setPending [b, a] s) = .next t)

/-- R56: issuing the same operation again, with no host write in between, writes the same results (as steps, log entry 3). -/
def Obligations.RepeatedIssueRepeatsResults : Prop :=
  ∀ (s t : State) (v w : Byte) (rest : List Access),
    s.host.pending = .writeReg 0x03 v :: .writeReg 0x03 w :: rest → step s = .next t →
      ∃ u, step t = .next u ∧ u.req = s.req ∧ u.res = t.res

/-- R35: the results are written only by an issue and by reset; the request only by a host write and by reset (as steps, log
entry 3). -/
def Obligations.WhoWritesRequestAndResults : Prop :=
  ∀ (s t : State) (a : Access) (rest : List Access), s.host.pending = a :: rest → step s = .next t →
    (t.res ≠ s.res → a = .reset ∨ ∃ v, a = .writeReg 0x03 v) ∧
      (t.req ≠ s.req →
        a = .reset ∨ (∃ n v, a = .writeReg n v ∧ n.toNat ≤ 0x02) ∨
          ∃ n c, a = .writeBuf n c ∧ 0x10 ≤ n.toNat ∧ n.toNat ≤ 0x15)

/-- R230, R231: the Reset access puts every piece of the codec's state at its reset value in one step and leaves the parameters; the
host's side of the port, which stays, is the model's, log entry 3. -/
def Obligations.ResetAccessRestoresResetValues : Prop :=
  ∀ (s : State) (rest : List Access), s.host.pending = .reset :: rest →
    step s =
      .next
        { req :=
            { op := 0x00, argctl := 0x07, frameId := 0x00, argCmd := [], argValue := [], argAddr16 := [],
              argAddr64 := [], argOptions := [], input := [] }
          res := { rstat := 0x00, err := 0x00, errInfo := 0x00, out := [], cands := [], base := none, results := [] }
          host := { pending := rest, observed := s.host.observed }
          params := s.params }

/-- R217: with no access to perform the codec holds its state (the model's idle step, log entry 3). -/
def Obligations.IdleCodecHoldsItsState : Prop :=
  ∀ s : State, s.host.pending = [] → step s = .next s

/-- R247: a run that is not refused has one observation for each read and for each write to ISSUE (the model's form of a run, log
entry 3). -/
def Obligations.RunObservationCount : Prop :=
  ∀ (p : Params) (l : List Access) (o : List Observation), observation p l = some o → o.length = (l.filter observes).length

/-- R85: the host accesses of a builder's line that names its frame id, and of one that does not. The order of the buffer writes is
the model's, log entry 15. -/
def Obligations.BuilderLineExpansion : Prop :=
  ∀ (cmd value : Bytes) (fid : Byte),
    expandLine (lineBuildLocalAtCommand cmd value (some fid)) =
        [.writeBuf 0x10 cmd, .writeBuf 0x11 value, .writeReg 0x02 fid, .writeReg 0x01 0x06, .writeReg 0x00 0x20,
          .writeReg 0x03 0x00] ∧
      expandLine (lineEncodeLocalAt cmd value) =
        [.writeBuf 0x10 cmd, .writeBuf 0x11 value, .writeReg 0x01 0x07, .writeReg 0x00 0x20, .writeReg 0x03 0x00]
end

