-- ==== Sys2Proof/Laws/Bytes.lean ====
section
/-! SUPPORT. Laws/Bytes: the small lemmas of the byte-string functions: sums and checksums, candidates and their parts, hex
digits, segments. -/

namespace Sys2Proof.Machine

open Sys2Proof.Safety

theorem byteSum_append (s t : Bytes) : byteSum (s ++ t) = byteSum s + byteSum t := by
  induction s with
  | nil => simp [byteSum]
  | cons b s ih => simp [byteSum, ih]; omega

theorem byteSum_eq_sum (s : Bytes) : byteSum s = (s.map BitVec.toNat).sum := by
  induction s with
  | nil => rfl
  | cons b s ih => simp [byteSum, ih]

theorem sum8_lt (s : Bytes) : sum8 s < 256 := Nat.mod_lt _ (by decide)

/-- The checksum as a number (R100). -/
theorem checksum_toNat (s : Bytes) : (checksum s).toNat = 0xFF - sum8 s := by
  have := sum8_lt s
  simp only [checksum, BitVec.toNat_ofNat]
  omega

/-- The model's checksum is the one claims are stated with. -/
theorem checksum_eq (s : Bytes) : checksum s = checksumByte s := by
  simp [checksum, checksumByte, sum8, byteSum_eq_sum]

theorem lengthBytes_length (n : Nat) : (lengthBytes n).length = 2 := rfl

theorem candidateOf_length (data : Bytes) : (candidateOf data).length = data.length + 3 := by
  simp [candidateOf, lengthBytes]

theorem wireFrame_length (data : Bytes) : (wireFrame data).length = data.length + 4 := by
  simp [wireFrame, candidateOf_length]

/-- The model's candidate is the one claims are stated with. -/
theorem candidateOf_eq (data : Bytes) : candidateOf data = candidate data := by
  simp [candidateOf, candidate, lengthBytes, checksum_eq]

/-- The frame data of a candidate is what it was made of. -/
theorem frameDataOf_candidateOf (data : Bytes) : frameDataOf (candidateOf data) = data := by
  simp [frameDataOf, slice, candidateOf, lengthBytes]

/-- The declared checksum of a candidate is the one it was made with. -/
theorem declaredChecksum_candidateOf (data : Bytes) : declaredChecksum (candidateOf data) = checksum data := by
  simp [declaredChecksum, byteAt, candidateOf, lengthBytes, List.getD_eq_getElem?_getD]

/-- The declared length of a candidate is the length of its frame data modulo 0x10000. -/
theorem declaredLength_candidateOf (data : Bytes) : declaredLength (candidateOf data) = data.length % 65536 := by
  simp only [declaredLength, byteAt, candidateOf, lengthBytes, List.getD_eq_getElem?_getD, List.cons_append,
    List.nil_append, List.getElem?_cons_zero, List.getElem?_cons_succ, Option.getD_some, BitVec.toNat_ofNat]
  omega

/-- A candidate is of one frame data only. -/
theorem candidateOf_inj {d e : Bytes} (h : candidateOf d = candidateOf e) : d = e := by
  have := congrArg frameDataOf h
  rwa [frameDataOf_candidateOf, frameDataOf_candidateOf] at this

/-- The segments of a byte string are never none. -/
theorem segments_ne_nil (s : Bytes) : segments s ≠ [] := by
  cases s with
  | nil => simp [segments]
  | cons b s =>
    unfold segments
    split
    · simp
    · split <;> simp

/-- A start byte closes the segment before it. -/
theorem segments_start (s : Bytes) : segments (Config.startByte :: s) = [] :: segments s := by
  simp [segments]

/-- Any other byte joins the first segment. -/
theorem segments_other {b : Byte} (h : b ≠ Config.startByte) (s : Bytes) :
    ∃ cur segs, segments s = cur :: segs ∧ segments (b :: s) = (b :: cur) :: segs := by
  cases hs : segments s with
  | nil => exact absurd hs (segments_ne_nil s)
  | cons cur segs => exact ⟨cur, segs, rfl, by simp [segments, h, hs]⟩

/-- The candidates after a start byte are all the segments of what follows it. -/
theorem splitFrames_start (s : Bytes) : splitFrames (Config.startByte :: s) = segments s := by
  simp [splitFrames, segments_start]

/-- A byte before the first start byte is noise. -/
theorem splitFrames_other {b : Byte} (h : b ≠ Config.startByte) (s : Bytes) :
    splitFrames (b :: s) = splitFrames s := by
  obtain ⟨cur, segs, hs, hb⟩ := segments_other h s
  simp [splitFrames, hs, hb]

/-- There are at most as many candidates as bytes (R141). -/
theorem splitFrames_length_le (s : Bytes) : (splitFrames s).length ≤ s.length := by
  have : (segments s).length ≤ s.length + 1 := by
    induction s with
    | nil => simp [segments]
    | cons b s ih =>
      by_cases h : b = Config.startByte
      · subst h; simp [segments_start]; omega
      · obtain ⟨cur, segs, hs, hb⟩ := segments_other h s
        simp [hs] at ih
        simp [hb]; omega
  simp [splitFrames]; omega

/-- A text of hex digits spells half as many bytes. -/
theorem hexToBytes_length : ∀ {t out : Bytes}, hexToBytes t = some out → 2 * out.length = t.length
  | [], out, h => by simp [hexToBytes] at h; simp [h]
  | [_], out, h => by simp [hexToBytes] at h
  | a :: b :: rest, out, h => by
    simp only [hexToBytes] at h
    split at h
    · rename_i h1 l1 s1 _ _ hs
      cases h
      have := hexToBytes_length hs
      simp; omega
    · cases h

theorem bytesToHex_length (s : Bytes) : (bytesToHex s).length = 2 * s.length := by
  induction s with
  | nil => rfl
  | cons b s ih => simp [bytesToHex, ih]; omega

/-- `hexVal` is the digit table (R104): it answers `d` exactly for a digit of value `d`. -/
theorem hexVal_iff (c : Byte) (d : Nat) : hexVal c = some d ↔ IsDigit c d := by
  have key : ∀ c : Byte, ∀ d : Nat, d < 16 → (hexVal c = some d ↔ IsDigit c d) := by
    unfold IsDigit
    decide +kernel
  by_cases h : d < 16
  · exact key c d h
  · have := c.isLt
    have hl : lowerDigits[d]? = none := List.getElem?_eq_none (by simp [lowerDigits]; omega)
    have hu : upperDigits[d]? = none := List.getElem?_eq_none (by simp [upperDigits]; omega)
    simp only [IsDigit, hl, hu, reduceCtorEq, or_self, iff_false]
    intro hc
    unfold hexVal at hc
    repeat' split at hc
    all_goals first
      | (cases hc; done)
      | (simp only [Option.some.injEq] at hc; omega)

theorem hexVal_lt {c : Byte} {d : Nat} (h : hexVal c = some d) : d < 16 := by
  have := c.isLt
  unfold hexVal at h
  repeat' split at h
  all_goals first
    | (cases h; done)
    | (simp only [Option.some.injEq] at h; omega)

/-- The digit written for a value is the table's (R106). -/
theorem hexDigit_eq {n : Nat} (h : n < 16) : hexDigit n = lowerDigits.getD n 0x00 := by
  have : ∀ n < 16, hexDigit n = lowerDigits.getD n 0x00 := by decide
  exact this n h

/-- The digit written for a value is read back as that value. -/
theorem hexVal_hexDigit {n : Nat} (h : n < 16) : hexVal (hexDigit n) = some n := by
  have : ∀ n < 16, hexVal (hexDigit n) = some n := by decide
  exact this n h

/-- A byte string with no start byte is one segment. -/
theorem segments_clean : ∀ {s : Bytes}, Config.startByte ∉ s → segments s = [s]
  | [], _ => rfl
  | b :: s, h => by
    obtain ⟨cur, segs, hs, hb⟩ := segments_other (fun he => h (he ▸ List.mem_cons_self)) s
    rw [segments_clean (fun hm => h (List.mem_cons_of_mem b hm))] at hs
    cases hs
    exact hb

/-- A start byte after a clean string closes that string. -/
theorem segments_clean_start :
    ∀ {a : Bytes} (s : Bytes), Config.startByte ∉ a → segments (a ++ Config.startByte :: s) = a :: segments s
  | [], s, _ => segments_start s
  | b :: a, s, h => by
    obtain ⟨cur, segs, hs, hb⟩ :=
      segments_other (fun he => h (he ▸ List.mem_cons_self)) (a ++ Config.startByte :: s)
    rw [segments_clean_start s (fun hm => h (List.mem_cons_of_mem b hm))] at hs
    cases hs
    exact hb

/-- No segment contains the start byte. -/
theorem startByte_notMem_segments (s : Bytes) : ∀ c ∈ segments s, Config.startByte ∉ c := by
  induction s with
  | nil => simp [segments]
  | cons b s ih =>
    by_cases h : b = Config.startByte
    · subst h
      simpa [segments_start] using ih
    · obtain ⟨cur, segs, hs, hb⟩ := segments_other h s
      rw [hs] at ih
      rw [hb]
      simp only [List.mem_cons, forall_eq_or_imp, not_or] at ih ⊢
      exact ⟨⟨fun e => h e.symm, ih.1⟩, ih.2⟩

end Sys2Proof.Machine
end

