-- ==== Sys2Proof/Laws/State.lean ====
section
/-! SUPPORT. Laws/State: what each update of the state leaves in each of its parts, so that no later proof unfolds a record
update. -/

namespace Sys2Proof.Machine

@[simp] theorem prologue_req (s : State) : (prologue s).req = s.req := rfl
@[simp] theorem prologue_host (s : State) : (prologue s).host = s.host := rfl
@[simp] theorem prologue_params (s : State) : (prologue s).params = s.params := rfl
@[simp] theorem prologue_rstat (s : State) : (prologue s).res.rstat = s.res.rstat := rfl
@[simp] theorem prologue_err (s : State) : (prologue s).res.err = s.res.err := rfl
@[simp] theorem prologue_errInfo (s : State) : (prologue s).res.errInfo = s.res.errInfo := rfl
@[simp] theorem prologue_out (s : State) : (prologue s).res.out = [] := rfl
@[simp] theorem prologue_cands (s : State) : (prologue s).res.cands = [] := rfl
@[simp] theorem prologue_base (s : State) : (prologue s).res.base = none := rfl
@[simp] theorem prologue_results (s : State) : (prologue s).res.results = [] := rfl

@[simp] theorem raiseError_req (f : Failure) (s : State) : (raiseError f s).req = s.req := rfl
@[simp] theorem raiseError_host (f : Failure) (s : State) : (raiseError f s).host = s.host := rfl
@[simp] theorem raiseError_params (f : Failure) (s : State) : (raiseError f s).params = s.params := rfl
@[simp] theorem raiseError_rstat (f : Failure) (s : State) : (raiseError f s).res.rstat = rstatRaised := rfl
@[simp] theorem raiseError_err (f : Failure) (s : State) : (raiseError f s).res.err = errorCode f.error := rfl
@[simp] theorem raiseError_errInfo (f : Failure) (s : State) : (raiseError f s).res.errInfo = f.info := rfl
@[simp] theorem raiseError_out (f : Failure) (s : State) : (raiseError f s).res.out = s.res.out := rfl
@[simp] theorem raiseError_cands (f : Failure) (s : State) : (raiseError f s).res.cands = s.res.cands := rfl
@[simp] theorem raiseError_base (f : Failure) (s : State) : (raiseError f s).res.base = s.res.base := rfl
@[simp] theorem raiseError_results (f : Failure) (s : State) : (raiseError f s).res.results = s.res.results := rfl

@[simp] theorem writeResults_req (w : Written) (s : State) : (writeResults w s).req = s.req := rfl
@[simp] theorem writeResults_host (w : Written) (s : State) : (writeResults w s).host = s.host := rfl
@[simp] theorem writeResults_params (w : Written) (s : State) : (writeResults w s).params = s.params := rfl
@[simp] theorem writeResults_rstat (w : Written) (s : State) : (writeResults w s).res.rstat = s.res.rstat := rfl
@[simp] theorem writeResults_err (w : Written) (s : State) : (writeResults w s).res.err = s.res.err := rfl
@[simp] theorem writeResults_errInfo (w : Written) (s : State) : (writeResults w s).res.errInfo = s.res.errInfo := rfl
@[simp] theorem writeResults_out (w : Written) (s : State) : (writeResults w s).res.out = w.out := rfl
@[simp] theorem writeResults_cands (w : Written) (s : State) : (writeResults w s).res.cands = w.cands := rfl
@[simp] theorem writeResults_base (w : Written) (s : State) : (writeResults w s).res.base = w.base := rfl
@[simp] theorem writeResults_results (w : Written) (s : State) : (writeResults w s).res.results = w.results := rfl

@[simp] theorem returnOk_req (s : State) : (returnOk s).req = s.req := rfl
@[simp] theorem returnOk_host (s : State) : (returnOk s).host = s.host := rfl
@[simp] theorem returnOk_params (s : State) : (returnOk s).params = s.params := rfl
@[simp] theorem returnOk_rstat (s : State) : (returnOk s).res.rstat = rstatReturned := rfl
@[simp] theorem returnOk_err (s : State) : (returnOk s).res.err = errorCode .none := rfl
@[simp] theorem returnOk_errInfo (s : State) : (returnOk s).res.errInfo = 0x00 := rfl
@[simp] theorem returnOk_out (s : State) : (returnOk s).res.out = s.res.out := rfl
@[simp] theorem returnOk_cands (s : State) : (returnOk s).res.cands = s.res.cands := rfl
@[simp] theorem returnOk_base (s : State) : (returnOk s).res.base = s.res.base := rfl
@[simp] theorem returnOk_results (s : State) : (returnOk s).res.results = s.res.results := rfl

@[simp] theorem resetCodec_req (s : State) : (resetCodec s).req = Request.reset := rfl
@[simp] theorem resetCodec_res (s : State) : (resetCodec s).res = Results.reset := rfl
@[simp] theorem resetCodec_host (s : State) : (resetCodec s).host = s.host := rfl
@[simp] theorem resetCodec_params (s : State) : (resetCodec s).params = s.params := rfl

@[simp] theorem observe_req (o : Observation) (s : State) : (observe o s).req = s.req := rfl
@[simp] theorem observe_res (o : Observation) (s : State) : (observe o s).res = s.res := rfl
@[simp] theorem observe_params (o : Observation) (s : State) : (observe o s).params = s.params := rfl
@[simp] theorem observe_pending (o : Observation) (s : State) : (observe o s).host.pending = s.host.pending := rfl
@[simp] theorem observe_observed (o : Observation) (s : State) :
    (observe o s).host.observed = s.host.observed ++ [o] := rfl

@[simp] theorem setPending_req (l : List Access) (s : State) : (setPending l s).req = s.req := rfl
@[simp] theorem setPending_res (l : List Access) (s : State) : (setPending l s).res = s.res := rfl
@[simp] theorem setPending_params (l : List Access) (s : State) : (setPending l s).params = s.params := rfl
@[simp] theorem setPending_pending (l : List Access) (s : State) : (setPending l s).host.pending = l := rfl
@[simp] theorem setPending_observed (l : List Access) (s : State) :
    (setPending l s).host.observed = s.host.observed := rfl

@[simp] theorem writeReg_res (n v : Byte) (s : State) : (writeReg n v s).res = s.res := by
  unfold writeReg; split <;> rfl
@[simp] theorem writeReg_host (n v : Byte) (s : State) : (writeReg n v s).host = s.host := by
  unfold writeReg; split <;> rfl
@[simp] theorem writeReg_params (n v : Byte) (s : State) : (writeReg n v s).params = s.params := by
  unfold writeReg; split <;> rfl

@[simp] theorem replaceBuf_res (n : Byte) (c : Bytes) (s : State) : (replaceBuf n c s).res = s.res := by
  unfold replaceBuf; split <;> rfl
@[simp] theorem replaceBuf_host (n : Byte) (c : Bytes) (s : State) : (replaceBuf n c s).host = s.host := by
  unfold replaceBuf; split <;> rfl
@[simp] theorem replaceBuf_params (n : Byte) (c : Bytes) (s : State) : (replaceBuf n c s).params = s.params := by
  unfold replaceBuf; split <;> rfl

end Sys2Proof.Machine
end

