-- ==== Sys2Proof/Laws/Ops.lean ====
section
/-! SUPPORT. Laws/Ops: what each shared operation can do, said once: the capacity rule, the whole issue (`conclude`), and the
host's buffer write. -/

namespace Sys2Proof.Machine

open Sys2Proof.Safety

/-- `withinCap` is the comparison with `P_BUF_CAP`. -/
theorem withinCap_iff (p : Params) (n : Nat) : withinCap p n = true ↔ n ≤ p.bufCap := by
  simp [withinCap]

/-- `fits` is R55's three bounds. -/
theorem fits_iff (p : Params) (w : Written) :
    fits p w = true ↔ w.out.length ≤ p.bufCap ∧ w.cands.length ≤ p.bufCap ∧ w.results.length ≤ p.bufCap := by
  simp [fits, withinCap_iff, and_assoc]

/-- Results that are an OUT alone fit when OUT does. -/
theorem fits_out (p : Params) (o : Bytes) : fits p { out := o } = decide (o.length ≤ p.bufCap) := by
  simp [fits, withinCap]

/-- A base record alone always fits: R55 bounds no record. -/
theorem fits_base (p : Params) (b : BaseRecord) : fits p { base := some b } = true := by
  simp [fits, withinCap]

/-- Elements of RESULTS alone fit when there are not too many. -/
theorem fits_results (p : Params) (r : List DecodeResult) :
    fits p { results := r } = decide (r.length ≤ p.bufCap) := by
  simp [fits, withinCap]

/-- An issue whose operation raises. -/
theorem conclude_error (f : Failure) (s : State) :
    conclude (.error f) s = .next (raised (errorCode f.error) f.info s) := rfl

/-- An issue whose operation returns a result that fits. -/
theorem conclude_ok {w : Written} {s : State} (h : fits s.params w = true) : conclude (.ok w) s = .next (returned w s) := by
  simp only [conclude, h, if_true]
  rfl

/-- An issue whose operation returns a result that does not fit. -/
theorem conclude_overCapacity {w : Written} {s : State} (h : fits s.params w = false) :
    conclude (.ok w) s = .refused .resultOverCapacity := by
  simp [conclude, h]

/-- Everything an issue can do: raise, return, or be refused for capacity. -/
theorem conclude_cases (r : Except Failure Written) (s : State) :
    (∃ f, r = .error f ∧ conclude r s = .next (raised (errorCode f.error) f.info s)) ∨
      (∃ w, r = .ok w ∧ fits s.params w = true ∧ conclude r s = .next (returned w s)) ∨
      (∃ w, r = .ok w ∧ fits s.params w = false ∧ conclude r s = .refused .resultOverCapacity) := by
  cases r with
  | error f => exact .inl ⟨f, rfl, conclude_error f s⟩
  | ok w =>
    cases h : fits s.params w with
    | true => exact .inr (.inl ⟨w, rfl, h, conclude_ok h⟩)
    | false => exact .inr (.inr ⟨w, rfl, h, conclude_overCapacity h⟩)

/-- When an issue answers a next state, it is one of these two. -/
theorem conclude_next {r : Except Failure Written} {s t : State} (h : conclude r s = .next t) :
    (∃ f, r = .error f ∧ t = raised (errorCode f.error) f.info s) ∨
      (∃ w, r = .ok w ∧ fits s.params w = true ∧ t = returned w s) := by
  obtain ⟨f, hr, hc⟩ | ⟨w, hr, hf, hc⟩ | ⟨w, hr, hf, hc⟩ := conclude_cases r s
  · rw [hc] at h; exact .inl ⟨f, hr, (Host.Outcome.next.inj h).symm⟩
  · rw [hc] at h; exact .inr ⟨w, hr, hf, (Host.Outcome.next.inj h).symm⟩
  · rw [hc] at h; cases h

/-- Error numbers run from 0x00 to 0x0A (R203). -/
theorem errorCode_le (e : ErrorCode) : (errorCode e).toNat ≤ 0x0A := by
  cases e <;> decide

/-- No error but NONE has number 0x00 (R203). -/
theorem errorCode_eq_zero {e : ErrorCode} : errorCode e = 0x00 ↔ e = .none := by
  cases e <;> decide

@[simp] theorem returned_req (w : Written) (s : State) : (returned w s).req = s.req := rfl
@[simp] theorem returned_params (w : Written) (s : State) : (returned w s).params = s.params := rfl
@[simp] theorem returned_host (w : Written) (s : State) : (returned w s).host = s.host := rfl
@[simp] theorem raised_req (c i : Byte) (s : State) : (raised c i s).req = s.req := rfl
@[simp] theorem raised_params (c i : Byte) (s : State) : (raised c i s).params = s.params := rfl
@[simp] theorem raised_host (c i : Byte) (s : State) : (raised c i s).host = s.host := rfl

/-- Everything a host buffer write can do: be refused over capacity on a buffer, or replace the buffer it names. -/
theorem writeBuf_cases (n : Byte) (c : Bytes) (s : State) :
    (isBuffer n = true ∧ s.params.bufCap < c.length ∧ writeBuf n c s = .refused (.writeOverCapacity n)) ∨
      ((isBuffer n = true → c.length ≤ s.params.bufCap) ∧ writeBuf n c s = .next (replaceBuf n c s)) := by
  unfold writeBuf
  have hiff := withinCap_iff s.params c.length
  cases hb : isBuffer n <;> cases hw : withinCap s.params c.length <;> simp_all

end Sys2Proof.Machine
end

