-- ==== Sys2Proof/Laws/Builder.lean ====
section
/-! SUPPORT. Laws/Builder: what the shared part of the frame builders can answer, said once. -/

namespace Sys2Proof.Machine

open Sys2Proof.Safety

/-- Everything `Finalize` can answer (R120): `PayloadTooLarge`, or the frame of the data. -/
theorem finalize_cases (data : Bytes) :
    (0xFFFF < data.length ∧ finalize data = .error ⟨.payloadTooLarge, 0x00⟩) ∨
      (data.length ≤ 0xFFFF ∧ finalize data = .ok { out := wireFrame data }) := by
  by_cases h : data.length > 0xFFFF
  · exact .inl ⟨h, by simp [finalize, lengthFieldOf, Config.maxLen, h]⟩
  · have hl : lengthFieldOf data = some (lengthBytes data.length) := if_neg h
    exact .inr ⟨by omega, by simp [finalize, hl, wireFrame, candidateOf]⟩

/-- Everything a whole issue that ends in `Finalize` can do: raise `PayloadTooLarge`, return the frame, or be refused because the
frame, four bytes longer than its data, does not fit. -/
theorem conclude_finalize_cases (data : Bytes) (s : State) :
    (0xFFFF < data.length ∧ conclude (finalize data) s = .next (raised 0x02 0x00 s)) ∨
      (data.length ≤ 0xFFFF ∧ data.length + 4 ≤ s.params.bufCap ∧
        conclude (finalize data) s = .next (returned { out := wireFrame data } s)) ∨
      (data.length ≤ 0xFFFF ∧ s.params.bufCap < data.length + 4 ∧
        conclude (finalize data) s = .refused .resultOverCapacity) := by
  obtain ⟨hl, hf⟩ | ⟨hl, hf⟩ := finalize_cases data
  · exact .inl ⟨hl, hf ▸ rfl⟩
  · by_cases hc : data.length + 4 ≤ s.params.bufCap
    · exact .inr (.inl ⟨hl, hc, hf ▸ conclude_ok (by simp [fits_out, wireFrame_length, hc])⟩)
    · exact .inr (.inr ⟨hl, by omega, hf ▸ conclude_overCapacity (by simp [fits_out, wireFrame_length]; omega)⟩)

/-- The command name is ARG_CMD when it has 2 bytes, else an error (R121). -/
theorem commandOperand_cases (q : Request) :
    (q.argCmd.length = 2 ∧ commandOperand q = .ok q.argCmd) ∨
      (q.argCmd.length ≠ 2 ∧ commandOperand q = .error ⟨.invalidCommandName, 0x00⟩) := by
  by_cases h : q.argCmd.length = 2
  · exact .inl ⟨h, if_pos h⟩
  · exact .inr ⟨h, if_neg h⟩

/-- The 16-bit address is ARG_ADDR16 when it has 2 bytes, else an error (R121). -/
theorem addr16Operand_cases (q : Request) :
    (q.argAddr16.length = 2 ∧ addr16Operand q = .ok q.argAddr16) ∨
      (q.argAddr16.length ≠ 2 ∧ addr16Operand q = .error ⟨.invalidFieldWidth, 0x01⟩) := by
  by_cases h : q.argAddr16.length = 2
  · exact .inl ⟨h, if_pos h⟩
  · exact .inr ⟨h, if_neg h⟩

/-- The 64-bit address is the default with A64_DEF, else ARG_ADDR64 when it has 8 bytes, else an error (R121, R124). -/
theorem addr64Operand_cases (q : Request) :
    (a64Def q = true ∧ addr64Operand q = .ok Config.defaultAddr64) ∨
      (a64Def q = false ∧ q.argAddr64.length = 8 ∧ addr64Operand q = .ok q.argAddr64) ∨
      (a64Def q = false ∧ q.argAddr64.length ≠ 8 ∧ addr64Operand q = .error ⟨.invalidFieldWidth, 0x02⟩) := by
  unfold addr64Operand
  cases a64Def q <;> by_cases h : q.argAddr64.length = 8 <;> simp [h]

/-- The options byte is the default with OPT_DEF, else ARG_OPTIONS when it has 1 byte, else an error (R121, R124). -/
theorem optionsOperand_cases (q : Request) :
    (optDef q = true ∧ optionsOperand q = .ok [Config.defaultOptions]) ∨
      (optDef q = false ∧ q.argOptions.length = 1 ∧ optionsOperand q = .ok q.argOptions) ∨
      (optDef q = false ∧ q.argOptions.length ≠ 1 ∧ optionsOperand q = .error ⟨.invalidFieldWidth, 0x03⟩) := by
  unfold optionsOperand
  cases optDef q <;> by_cases h : q.argOptions.length = 1 <;> simp [h]

end Sys2Proof.Machine
end

