-- ==== Sys2Proof/Laws/Parser.lean ====
section
/-! SUPPORT. Laws/Parser: what the validator and the dispatch can answer, said once. -/

namespace Sys2Proof.Machine

open Sys2Proof.Safety

/-- The candidate of some frame data that fits the length field validates, with this base record (R150). -/
theorem validateCandidate_candidateOf {api : Byte} {body : Bytes} (h : body.length + 1 ≤ 0xFFFF) :
    validateCandidate (candidateOf (api :: body)) = .ok (baseOf api body) := by
  unfold validateCandidate
  simp only [candidateOf_length, frameDataOf_candidateOf, declaredLength_candidateOf, declaredChecksum_candidateOf,
    List.length_cons]
  have hm : (body.length + 1) % 65536 = body.length + 1 := Nat.mod_eq_of_lt (by omega)
  rw [hm]
  simp [baseOf, checksum_eq, fieldByte, byteAt]
  cases body <;> simp

/-- Everything the validator can answer (R150, R151, R153, R154). -/
theorem validateCandidate_cases (c : Bytes) :
    (c.length < 4 ∧ validateCandidate c = .error ⟨.frameTooShort, 0x00⟩) ∨
      (4 ≤ c.length ∧ (frameDataOf c).length ≠ declaredLength c ∧
        validateCandidate c = .error ⟨.lengthMismatch, 0x00⟩) ∨
      (4 ≤ c.length ∧ (frameDataOf c).length = declaredLength c ∧ checksum (frameDataOf c) ≠ declaredChecksum c ∧
        validateCandidate c = .error ⟨.checksumMismatch, 0x00⟩) ∨
      (4 ≤ c.length ∧ (frameDataOf c).length = declaredLength c ∧ checksum (frameDataOf c) = declaredChecksum c ∧
        ∃ b, validateCandidate c = .ok b ∧ b.frameData = frameDataOf c ∧ b.apiId = byteAt (frameDataOf c) 0) := by
  unfold validateCandidate
  by_cases h1 : c.length < 4
  · exact .inl ⟨h1, by simp [h1]⟩
  · by_cases h2 : (frameDataOf c).length = declaredLength c
    · by_cases h3 : checksum (frameDataOf c) = declaredChecksum c
      · refine .inr (.inr (.inr ⟨by omega, h2, h3, ?_⟩))
        simp only [if_neg h1, h2, h3, ne_eq, not_true_eq_false, if_false]
        exact ⟨_, rfl, rfl, rfl⟩
      · exact .inr (.inr (.inl ⟨by omega, h2, h3, by simp [h1, h2, h3]⟩))
    · exact .inr (.inl ⟨by omega, h2, by simp [h1, h2]⟩)

/-- A candidate of at least 4 bytes is its two length bytes, its frame data and its last byte (R82). -/
theorem candidate_parts {c : Bytes} (h : 4 ≤ c.length) :
    c = [byteAt c 0, byteAt c 1] ++ frameDataOf c ++ [declaredChecksum c] := by
  match c, h with
  | a :: b :: rest, h =>
    obtain rfl | ⟨init, last, rfl⟩ := rest.eq_nil_or_concat
    · simp at h
    · simp [declaredChecksum, frameDataOf, slice, byteAt, List.getD_eq_getElem?_getD]

theorem frameDataOf_length {c : Bytes} (h : 4 ≤ c.length) : (frameDataOf c).length = c.length - 3 := by
  have := congrArg List.length (candidate_parts h)
  simp at this
  omega

/-- Two bytes are the length bytes of the number they declare. -/
theorem lengthBytes_declared (hi lo : Byte) : lengthBytes (256 * hi.toNat + lo.toNat) = [hi, lo] := by
  have h1 := hi.isLt
  have h2 := lo.isLt
  simp only [lengthBytes, List.cons.injEq, and_true]
  constructor <;> apply BitVec.eq_of_toNat_eq <;> simp <;> omega

/-- A byte string validates exactly when it is the candidate of some frame data that fits the length field, and the base record
is then that candidate's (R150, R155). -/
theorem validateCandidate_ok_iff (c : Bytes) (b : BaseRecord) :
    validateCandidate c = .ok b ↔
      ∃ (api : Byte) (body : Bytes), body.length + 1 ≤ 0xFFFF ∧ c = candidateOf (api :: body) ∧ b = baseOf api body := by
  constructor
  · intro h
    obtain ⟨_, he⟩ | ⟨_, _, he⟩ | ⟨_, _, _, he⟩ | ⟨h4, hl, hc, _⟩ := validateCandidate_cases c
    · rw [he] at h; cases h
    · rw [he] at h; cases h
    · rw [he] at h; cases h
    · have hparts := candidate_parts h4
      have hlen := frameDataOf_length h4
      have hc' : c = candidateOf (frameDataOf c) := by
        conv_lhs => rw [hparts]
        rw [candidateOf, hl, declaredLength, lengthBytes_declared, hc]
      have hmax : (frameDataOf c).length ≤ 0xFFFF := by
        rw [hl, declaredLength]
        have := (byteAt c 0).isLt
        have := (byteAt c 1).isLt
        omega
      cases hd : frameDataOf c with
      | nil => rw [hd] at hlen; simp at hlen; omega
      | cons api body =>
        rw [hd] at hc' hmax
        refine ⟨api, body, by simpa using hmax, hc', ?_⟩
        rw [hc', validateCandidate_candidateOf (by simpa using hmax)] at h
        exact (Except.ok.inj h).symm
  · rintro ⟨api, body, hl, rfl, rfl⟩
    exact validateCandidate_candidateOf hl

/-- A one-byte field is the library's optional index (R162). -/
theorem fieldByte_eq (p : Bytes) (a : Nat) : fieldByte p a = p[a]? := by
  unfold fieldByte byteAt
  split
  · rename_i h
    rw [List.getD_eq_getElem?_getD, List.getElem?_eq_getElem (by omega)]
    rfl
  · rename_i h
    rw [List.getElem?_eq_none (by omega)]

/-- The dispatch answers a Response exactly for the two response api_ids (R158, R160). -/
theorem parseBase_cases (layout : RespLayout) (c : Bytes) (b : BaseRecord) :
    (b.apiId = 0x97 ∧ parseBase layout c b = .ok (remoteResponse layout c b)) ∨
      (b.apiId = 0x88 ∧ parseBase layout c b = .ok (localResponse layout c b)) ∨
      (b.apiId ≠ 0x97 ∧ b.apiId ≠ 0x88 ∧ parseBase layout c b = .error ⟨.unknownApiId, b.apiId⟩) := by
  unfold parseBase
  by_cases h1 : b.apiId = Config.apiRemoteAtResp
  · exact .inl ⟨h1, by simp [h1]⟩
  · by_cases h2 : b.apiId = Config.apiLocalAtResp
    · exact .inr (.inl ⟨h2, by rw [if_neg h1, if_pos h2]⟩)
    · exact .inr (.inr ⟨h1, h2, by rw [if_neg h1, if_neg h2]⟩)

end Sys2Proof.Machine
end

