-- ==== Sys2Proof/Laws/Exec.lean ====
section
/-! SUPPORT. Laws/Exec: every meaning is one whole issue (`conclude`) of a function of the request and the parameters, named once
here, so that a fact about all instructions is a fact about that function and `conclude`. -/

namespace Sys2Proof.Machine

open Sys2Proof.Safety

/-- What running a received frame comes to, before the issue is concluded. -/
def receivedOutcome (api : Byte) (body : Bytes) (decoded : Bytes → BaseRecord → Except Failure Response) :
    Except Failure Written :=
  match validateCandidate (candidateOf (api :: body)) with
  | .error f => .error f
  | .ok b =>
    match decoded (candidateOf (api :: body)) b with
    | .error f => .error f
    | .ok r => .ok { results := [.ok r] }

/-- What the pseudocode of an instruction comes to: the error it raises or the results it writes. -/
def outcomeOf (i : Instr) (p : Params) (q : Request) : Except Failure Written :=
  match i with
  | .checksum => .ok { out := [checksum q.input] }
  | .lengthField =>
    match lengthFieldOf q.input with
    | none => .error ⟨.payloadTooLarge, 0x00⟩
    | some l => .ok { out := l }
  | .hexToBytes =>
    match hexToBytes q.input with
    | none => .error ⟨.malformedHex, 0x00⟩
    | some b => .ok { out := b }
  | .bytesToHex => .ok { out := bytesToHex q.input }
  | .encLocalAt => buildLocalAt q
  | .encRemoteAt => buildRemoteAt q
  | .encQueuedAt => notImplemented
  | .encTx => notImplemented
  | .encExplicitTx => notImplemented
  | .split => .ok { cands := splitFrames q.input }
  | .validate =>
    match validateCandidate q.input with
    | .error f => .error f
    | .ok b => .ok { base := some b }
  | .parse =>
    match parseCandidate p.respLayout q.input with
    | .error f => .error f
    | .ok r => .ok { results := [.ok r] }
  | .decodeStream =>
    .ok
      { cands := splitFrames q.input
        results := (splitFrames q.input).map fun c => decodeResultOf (parseCandidate p.respLayout c) }
  | .frameLocalAtCommand body =>
    receivedOutcome Config.apiLocalAt body fun _ _ => .error ⟨.unknownApiId, Config.apiLocalAt⟩
  | .frameRemoteAtCommand body =>
    receivedOutcome Config.apiRemoteAt body fun _ _ => .error ⟨.unknownApiId, Config.apiRemoteAt⟩
  | .frameLocalAtResponse body =>
    receivedOutcome Config.apiLocalAtResp body fun c b => .ok (localResponse p.respLayout c b)
  | .frameRemoteAtResponse body =>
    receivedOutcome Config.apiRemoteAtResp body fun c b => .ok (remoteResponse p.respLayout c b)

/-- Every meaning is a whole issue of its outcome. -/
theorem exec_eq_conclude (i : Instr) (s : State) : exec i s = conclude (outcomeOf i s.params s.req) s := by
  cases i <;> rfl

/-- Everything an instruction can do. -/
theorem exec_cases (i : Instr) (s : State) :
    (∃ f, outcomeOf i s.params s.req = .error f ∧ exec i s = .next (raised (errorCode f.error) f.info s)) ∨
      (∃ w, outcomeOf i s.params s.req = .ok w ∧ fits s.params w = true ∧ exec i s = .next (returned w s)) ∨
      (∃ w, outcomeOf i s.params s.req = .ok w ∧ fits s.params w = false ∧ exec i s = .refused .resultOverCapacity) := by
  rw [exec_eq_conclude]
  exact conclude_cases _ s

/-- A validator's error is an error (R203). -/
theorem validateCandidate_error_ne_none {c : Bytes} {f : Failure} (h : validateCandidate c = .error f) :
    f.error ≠ .none := by
  obtain ⟨_, he⟩ | ⟨_, _, he⟩ | ⟨_, _, _, he⟩ | ⟨_, _, _, _, he, _⟩ := validateCandidate_cases c
  all_goals
    rw [he] at h
    cases h
  all_goals simp

/-- A parser's error is an error (R203). -/
theorem parseCandidate_error_ne_none {layout : RespLayout} {c : Bytes} {f : Failure}
    (h : parseCandidate layout c = .error f) : f.error ≠ .none := by
  unfold parseCandidate at h
  split at h
  · cases h
    exact validateCandidate_error_ne_none ‹_›
  · rename_i b _
    obtain ⟨_, he⟩ | ⟨_, he⟩ | ⟨_, _, he⟩ := parseBase_cases layout c b
    all_goals
      rw [he] at h
      cases h
    simp

/-- An error of a received frame is the validator's or its type's. -/
theorem receivedOutcome_error {api : Byte} {body : Bytes} {d : Bytes → BaseRecord → Except Failure Response} {f : Failure}
    (h : receivedOutcome api body d = .error f) :
    validateCandidate (candidateOf (api :: body)) = .error f ∨
      ∃ b, validateCandidate (candidateOf (api :: body)) = .ok b ∧ d (candidateOf (api :: body)) b = .error f := by
  unfold receivedOutcome at h
  split at h
  · rename_i hv
    cases h
    exact .inl hv
  · rename_i b hv
    split at h
    · rename_i hd
      cases h
      exact .inr ⟨b, hv, hd⟩
    · cases h

/-- Results of a received frame are the one Response of its type. -/
theorem receivedOutcome_ok {api : Byte} {body : Bytes} {d : Bytes → BaseRecord → Except Failure Response} {w : Written}
    (h : receivedOutcome api body d = .ok w) :
    ∃ b r, validateCandidate (candidateOf (api :: body)) = .ok b ∧ d (candidateOf (api :: body)) b = .ok r ∧
      w = { results := [.ok r] } := by
  unfold receivedOutcome at h
  split at h
  · cases h
  · rename_i b hv
    split at h
    · cases h
    · rename_i r hd
      cases h
      exact ⟨b, r, hv, hd, rfl⟩

end Sys2Proof.Machine
end

