-- ==== Sys2Proof/Laws/PerInstr.lean ====
section
/-! SUPPORT. Laws/PerInstr: facts about each instruction as syntax, one lemma per constructor. EncodingLength: an operation is one
byte (30_encoding.md R70), a frame is `L + 4` bytes long (R75), `L` its number of frame-data bytes. -/

namespace Sys2Proof.Laws.EncodingLength

open Sys2Proof

/-- The length an instruction's encoding has by R70 and R75. -/
def expected : Instr → Nat
  | .frameLocalAtCommand body => (body.length + 1) + 4
  | .frameRemoteAtCommand body => (body.length + 1) + 4
  | .frameLocalAtResponse body => (body.length + 1) + 4
  | .frameRemoteAtResponse body => (body.length + 1) + 4
  | .checksum => 1
  | .lengthField => 1
  | .hexToBytes => 1
  | .bytesToHex => 1
  | .encLocalAt => 1
  | .encRemoteAt => 1
  | .encQueuedAt => 1
  | .encTx => 1
  | .encExplicitTx => 1
  | .split => 1
  | .validate => 1
  | .parse => 1
  | .decodeStream => 1

def Statement (i : Instr) : Prop := (encode i).length = expected i

theorem checksum : Statement .checksum := rfl
theorem lengthField : Statement .lengthField := rfl
theorem hexToBytes : Statement .hexToBytes := rfl
theorem bytesToHex : Statement .bytesToHex := rfl
theorem encLocalAt : Statement .encLocalAt := rfl
theorem encRemoteAt : Statement .encRemoteAt := rfl
theorem encQueuedAt : Statement .encQueuedAt := rfl
theorem encTx : Statement .encTx := rfl
theorem encExplicitTx : Statement .encExplicitTx := rfl
theorem split : Statement .split := rfl
theorem validate : Statement .validate := rfl
theorem parse : Statement .parse := rfl
theorem decodeStream : Statement .decodeStream := rfl
theorem frameLocalAtCommand (body : Bytes) : Statement (.frameLocalAtCommand body) := Machine.wireFrame_length _
theorem frameRemoteAtCommand (body : Bytes) : Statement (.frameRemoteAtCommand body) := Machine.wireFrame_length _
theorem frameLocalAtResponse (body : Bytes) : Statement (.frameLocalAtResponse body) := Machine.wireFrame_length _
theorem frameRemoteAtResponse (body : Bytes) : Statement (.frameRemoteAtResponse body) := Machine.wireFrame_length _

end Sys2Proof.Laws.EncodingLength
end

