-- ==== Sys2Proof/Laws/Port.lean ====
section
/-! SUPPORT. Laws/Port: what a step does, by the host's next access. -/

namespace Sys2Proof.Machine

open Sys2Proof.Safety

/-- With no access left, a step holds the state. -/
theorem step_idle {s : State} (h : s.host.pending = []) : step s = .next s := by
  simp [step, stepAccess, h]

/-- With an access left, a step performs it. -/
theorem step_access {s : State} {a : Access} {rest : List Access} (h : s.host.pending = a :: rest) :
    step s = performAccess a (setPending rest s) := by
  simp [step, stepAccess, h]

/-- An issue of a legal op code is its instruction's meaning. -/
theorem issue_ok {s : State} {i : Instr} (h : decodeOp s.req.op = .ok i) : issue s = exec i s := by
  simp [issue, h]

/-- An issue of an illegal op code raises `IllegalOp` (R205). -/
theorem issue_illegal {s : State} {r : Reject} (h : decodeOp s.req.op = .error r) :
    issue s = .next (raised 0x0A s.req.op s) := by
  simp only [issue, h]
  rfl

/-- An issue runs the instruction OP selects or raises `IllegalOp`. -/
theorem issue_cases (s : State) :
    (∃ i, decodeOp s.req.op = .ok i ∧ issue s = exec i s) ∨ issue s = .next (raised 0x0A s.req.op s) := by
  cases h : decodeOp s.req.op with
  | ok i => exact .inl ⟨i, rfl, issue_ok h⟩
  | error r => exact .inr (issue_illegal h)

/-- A step whose access is a write to ISSUE (R25). -/
theorem step_issue {s : State} {v : Byte} {rest : List Access} (h : s.host.pending = .writeReg 0x03 v :: rest) :
    step s = observeIssue (issue (setPending rest s)) := by
  rw [step_access h]
  rfl

end Sys2Proof.Machine
end

