-- ==== Sys2Proof/Tests/Slice0.lean ====
section
/-! SUPPORT. Tests: the smoke test of WellFormed, the decoding of words written out from 30_encoding.md, one-step tests from
95_test_vectors.md, and for each statement with hypotheses a witness that meets them. -/

namespace Sys2Proof.Tests

open Sys2Proof.Machine Sys2Proof.Safety

/-- What a host can read after an outcome: the result registers and structures. -/
def resultOf : Host.Outcome State Fault Refusal → Option Results
  | .next s => some s.res
  | .fault _ => none
  | .refused _ => none

/-- The reset state of an instance with the capacity R8 recommends and the layout LAYOUT_WIRE. -/
def recommended : State := State.resetOf { bufCap := 0x10003, respLayout := .wire }

/-- A state in an instance with this capacity. -/
def withCap (n : Nat) (s : State) : State := { s with params := { s.params with bufCap := n } }

/-- The reset state with IN set. -/
def withIn (input : Bytes) : State := { recommended with req := { Request.reset with input := input } }

/-- The reset state with ARG_CMD, ARG_VALUE and a frame id named in a line (ARGCTL 0x06). -/
def withLocal (cmd value : Bytes) (fid : Byte) : State :=
  { recommended with
    req := { Request.reset with argCmd := cmd, argValue := value, frameId := fid, argctl := 0x06 } }

/-- The reset state with the operands of a remote build. -/
def withRemote (argctl : Byte) (a16 cmd value a64 opt : Bytes) : State :=
  { recommended with
    req :=
      { Request.reset with
        argctl := argctl, argAddr16 := a16, argCmd := cmd, argValue := value, argAddr64 := a64, argOptions := opt } }

/-- The reset state with an op code in OP, IN set, and these accesses to come. -/
def withPending (op : Byte) (input : Bytes) (l : List Access) : State :=
  setPending l { recommended with req := { Request.reset with op := op, input := input } }

/-- The result registers of an operation that returned, with nothing written. -/
def returnedResults : Results := { Results.reset with rstat := 0x01 }

/-- The result registers of an operation that raised. -/
def raisedResults (code info : Byte) : Results := { Results.reset with rstat := 0x03, err := code, errInfo := info }

/-! WellFormed: frame data of 0x10000 bytes has no length field (R75, R102). -/

theorem frameDataFits_replicate (n : Nat) :
    frameDataFits (List.replicate n 0x00) = decide (n + 1 ≤ Config.maxLen) := by
  rw [frameDataFits, List.length_replicate]

theorem test_illFormed_frameLocalAtCommand :
    (Instr.frameLocalAtCommand (List.replicate 0xFFFF 0x00)).wellFormed = false :=
  (frameDataFits_replicate 0xFFFF).trans (by decide)

theorem test_illFormed_frameRemoteAtCommand :
    (Instr.frameRemoteAtCommand (List.replicate 0xFFFF 0x00)).wellFormed = false :=
  (frameDataFits_replicate 0xFFFF).trans (by decide)

theorem test_illFormed_frameLocalAtResponse :
    (Instr.frameLocalAtResponse (List.replicate 0xFFFF 0x00)).wellFormed = false :=
  (frameDataFits_replicate 0xFFFF).trans (by decide)

theorem test_illFormed_frameRemoteAtResponse :
    (Instr.frameRemoteAtResponse (List.replicate 0xFFFF 0x00)).wellFormed = false :=
  (frameDataFits_replicate 0xFFFF).trans (by decide)

/-- The longest frame data, 0xFFFF bytes, is well formed. -/
theorem test_wellFormed_longest :
    (Instr.frameRemoteAtResponse (List.replicate 0xFFFE 0x00)).wellFormed = true :=
  (frameDataFits_replicate 0xFFFE).trans (by decide)

/-! Decoding, one word for each constructor: the bits of the op codes are R72's, the frames R75's and R77's. -/

theorem test_decode_checksum : decode [0b00010000] = .ok .checksum := by rfl
theorem test_decode_lengthField : decode [0b00010001] = .ok .lengthField := by rfl
theorem test_decode_hexToBytes : decode [0b00010010] = .ok .hexToBytes := by rfl
theorem test_decode_bytesToHex : decode [0b00010011] = .ok .bytesToHex := by rfl
theorem test_decode_encLocalAt : decode [0b00100000] = .ok .encLocalAt := by rfl
theorem test_decode_encRemoteAt : decode [0b00100001] = .ok .encRemoteAt := by rfl
theorem test_decode_encQueuedAt : decode [0b00100010] = .ok .encQueuedAt := by rfl
theorem test_decode_encTx : decode [0b00100011] = .ok .encTx := by rfl
theorem test_decode_encExplicitTx : decode [0b00100100] = .ok .encExplicitTx := by rfl
theorem test_decode_split : decode [0b00110000] = .ok .split := by rfl
theorem test_decode_validate : decode [0b01000000] = .ok .validate := by rfl
theorem test_decode_parse : decode [0b01000001] = .ok .parse := by rfl
theorem test_decode_decodeStream : decode [0b01000010] = .ok .decodeStream := by rfl

/-- V1's frame. -/
theorem test_decode_frameLocalAtCommand :
    decode [0b01111110, 0x00, 0x04, 0b00001000, 0x01, 0x4E, 0x44, 0x64] =
      .ok (.frameLocalAtCommand [0x01, 0x4E, 0x44]) := by rfl

/-- V20's frame. -/
theorem test_decode_frameRemoteAtCommand :
    decode [0b01111110, 0x00, 0x10, 0b00010111, 0x01, 0, 0, 0, 0, 0, 0, 0, 0, 0xFF, 0xFE, 0x02, 0x44, 0x30, 0x04, 0x70] =
      .ok (.frameRemoteAtCommand [0x01, 0, 0, 0, 0, 0, 0, 0, 0, 0xFF, 0xFE, 0x02, 0x44, 0x30, 0x04]) := by rfl

/-- V2's frame for LAYOUT_WIRE. -/
theorem test_decode_frameLocalAtResponse :
    decode [0b01111110, 0x00, 0x05, 0b10001000, 0x01, 0x4E, 0x44, 0x00, 0xE4] =
      .ok (.frameLocalAtResponse [0x01, 0x4E, 0x44, 0x00]) := by rfl

/-- A frame of one byte of frame data: 0xFF - 0x97 = 0x68 (R75, R100). -/
theorem test_decode_frameRemoteAtResponse :
    decode [0b01111110, 0x00, 0x01, 0b10010111, 0x68] = .ok (.frameRemoteAtResponse []) := by rfl

/-- R74: 0x14 is the first op code after ByteCodec's. -/
theorem test_reject_illegalOp : decode [0x14] = .error (.illegalOp 0x14) := by rfl

theorem test_reject_empty : decode [] = .error .empty := by rfl

theorem test_reject_noDelimiter : decode [0x00, 0x04, 0x08] = .error (.noDelimiter 0x00) := by rfl

/-- V24's second row, with its delimiter. -/
theorem test_reject_frameTooShort : decode [0x7E, 0x00, 0x04, 0x08] = .error .frameTooShort := by rfl

/-- V3's first frame. -/
theorem test_reject_lengthMismatch :
    decode [0x7E, 0x00, 0x05, 0x08, 0x01, 0x4E, 0x44, 0x64] = .error .lengthMismatch := by rfl

/-- V24's tenth row, with its delimiter. -/
theorem test_reject_checksumMismatch :
    decode [0x7E, 0x00, 0x04, 0x08, 0x01, 0x4E, 0x44, 0x65] = .error .checksumMismatch := by rfl

/-- V24's sixth row, with its delimiter: api_id 0xFF. -/
theorem test_reject_unknownApiId : decode [0x7E, 0x00, 0x01, 0xFF, 0x00] = .error (.unknownApiId 0xFF) := by rfl

/-- The opcode table's first and last op code, and its four api_ids. -/
theorem test_decodeTableWord :
    decodeTableWord 8 0x10 = some .checksum ∧ decodeTableWord 8 0x42 = some .decodeStream ∧
      decodeTableWord 8 0x08 = some (.frameLocalAtCommand []) ∧ decodeTableWord 8 0x17 = some (.frameRemoteAtCommand []) ∧
        decodeTableWord 8 0x88 = some (.frameLocalAtResponse []) ∧
          decodeTableWord 8 0x97 = some (.frameRemoteAtResponse []) ∧ decodeTableWord 8 0x55 = none := by decide

/-- An issue of CHECKSUM as the first step after reset: V9's first row. -/
theorem test_withFetchWord_checksum :
    resultOf (step (State.reset.withFetchWord 8 0x10)) = some { returnedResults with out := [0xFF] } := by decide

/-- A received frame with api_id 0x17 as the first step after reset: UnknownApiId (R160). -/
theorem test_withFetchWord_frame :
    resultOf (step (State.reset.withFetchWord 8 0x17)) = some (raisedResults 0x09 0x17) := by decide

/-- An illegal op code as the first step after reset: P4's step 4. -/
theorem test_withFetchWord_illegal :
    resultOf (step (State.reset.withFetchWord 8 0x55)) = some (raisedResults 0x0A 0x55) := by decide

/-! One step of each instruction, from 95_test_vectors.md. -/

/-- V9: the sum wraps. -/
theorem test_checksum_wraps :
    resultOf (exec .checksum (withIn [0xFF, 0x01])) = some { returnedResults with out := [0xFF] } := by decide

/-- V9: a worked example of the source. -/
theorem test_checksum_V9 :
    resultOf (exec .checksum (withIn [0x08, 0x01, 0x4E, 0x44])) = some { returnedResults with out := [0x64] } := by decide

/-- V10: 4 bytes. -/
theorem test_lengthField_V10 :
    resultOf (exec .lengthField (withIn [0x08, 0x01, 0x4E, 0x44])) =
      some { returnedResults with out := [0x00, 0x04] } := by decide

/-- V10: 0x100 bytes, high byte first. -/
theorem test_lengthField_bigEndian :
    resultOf (exec .lengthField (withIn (List.replicate 0x100 0x00))) =
      some { returnedResults with out := [0x01, 0x00] } := by decide +kernel

/-- V11: digits of both cases. -/
theorem test_hexToBytes_V11 :
    resultOf (exec .hexToBytes (withIn [0x61, 0x42])) = some { returnedResults with out := [0xAB] } := by decide

/-- V11: `0x12`. -/
theorem test_hexToBytes_malformed :
    resultOf (exec .hexToBytes (withIn [0x30, 0x78, 0x31, 0x32])) = some (raisedResults 0x01 0x00) := by decide

/-- V12: `7E 00 04`. -/
theorem test_bytesToHex_V12 :
    resultOf (exec .bytesToHex (withIn [0x7E, 0x00, 0x04])) =
      some { returnedResults with out := [0x37, 0x65, 0x30, 0x30, 0x30, 0x34] } := by decide

/-- V12: `0A`. -/
theorem test_bytesToHex_lowerCase :
    resultOf (exec .bytesToHex (withIn [0x0A])) = some { returnedResults with out := [0x30, 0x61] } := by decide

/-- V15: a named frame id. -/
theorem test_encLocalAt_V15 :
    resultOf (exec .encLocalAt (withLocal [0x44, 0x30] [0x05] 0x52)) =
      some { returnedResults with out := [0x7E, 0x00, 0x05, 0x08, 0x52, 0x44, 0x30, 0x05, 0x2C] } := by decide

/-- V16: a command of one byte. -/
theorem test_encLocalAt_V16 :
    resultOf (exec .encLocalAt (withLocal [0x4E] [] 0x01)) = some (raisedResults 0x03 0x00) := by decide

/-- V20: every default. -/
theorem test_encRemoteAt_V20 :
    resultOf (exec .encRemoteAt (withRemote 0x07 [0xFF, 0xFE] [0x44, 0x30] [0x04] [] [])) =
      some
        { returnedResults with
          out :=
            [0x7E, 0x00, 0x10, 0x17, 0x01, 0, 0, 0, 0, 0, 0, 0, 0, 0xFF, 0xFE, 0x02, 0x44, 0x30, 0x04, 0x70] } := by
  decide

/-- V19's fifth row: the address is checked before the options. -/
theorem test_encRemoteAt_V19 :
    resultOf (exec .encRemoteAt (withRemote 0x01 [0xFF, 0xFE] [0x44, 0x30] [] [0x00] [])) =
      some (raisedResults 0x04 0x02) := by decide

/-- V18. -/
theorem test_encQueuedAt_V18 :
    resultOf (exec .encQueuedAt (withLocal [0x4E] [] 0x01)) = some (raisedResults 0x05 0x00) := by decide

/-- V18. -/
theorem test_encTx_V18 :
    resultOf (exec .encTx (withLocal [0x4E] [] 0x01)) = some (raisedResults 0x05 0x00) := by decide

/-- V18. -/
theorem test_encExplicitTx_V18 :
    resultOf (exec .encExplicitTx (withLocal [0x4E] [] 0x01)) = some (raisedResults 0x05 0x00) := by decide

/-- V22: noise, and a last empty candidate. -/
theorem test_split_V22 :
    resultOf (exec .split (withIn [0x11, 0x22, 0x7E, 0x33, 0x7E])) =
      some { returnedResults with cands := [[0x33], []] } := by decide

/-- V23: a frame whose checksum is the delimiter. -/
theorem test_split_V23 :
    resultOf (exec .split (withIn [0x7E, 0x00, 0x04, 0x08, 0xE7, 0x4E, 0x44, 0x7E])) =
      some { returnedResults with cands := [[0x00, 0x04, 0x08, 0xE7, 0x4E, 0x44], []] } := by decide

/-- V24: no frame id. -/
theorem test_validate_V24 :
    resultOf (exec .validate (withIn [0x00, 0x01, 0xFF, 0x00])) =
      some
        { returnedResults with
          base :=
            some { declaredLength := 0x0001, checksum := 0x00, frameData := [0xFF], apiId := 0xFF, frameId := none } } := by
  decide

/-- V24: the length is checked before the checksum. -/
theorem test_validate_order :
    resultOf (exec .validate (withIn [0x00, 0x05, 0x08, 0x01, 0x4E, 0x44, 0x65])) = some (raisedResults 0x07 0x00) := by
  decide

/-- V8: a command frame. -/
theorem test_parse_V8 :
    resultOf (exec .parse (withIn [0x00, 0x04, 0x08, 0x01, 0x4E, 0x44, 0x64])) = some (raisedResults 0x09 0x08) := by
  decide

/-- V25's first row under LAYOUT_WIRE. -/
theorem test_parse_V25_wire :
    parseCandidate .wire [0x00, 0x05, 0x88, 0x01, 0x4E, 0x44, 0x00, 0xE4] =
      .ok
        { kind := .localAtResp, raw := [0x00, 0x05, 0x88, 0x01, 0x4E, 0x44, 0x00, 0xE4], apiId := 0x88,
          frameId := some 0x01, commandPayload := [0x4E, 0x44, 0x00], command := some [0x4E, 0x44],
          status := some 0x00, statusKind := some .ok, isOk := true, address16 := none, address64 := none,
          signalStrength := none, nodeId := none } := by rfl

/-- P5's step 3: errors of candidates are elements of RESULTS. -/
theorem test_decodeStream_P5 :
    resultOf (exec .decodeStream (withIn [0x7E, 0x00, 0x04, 0x08, 0xE7, 0x4E, 0x44, 0x7E])) =
      some
        { returnedResults with
          cands := [[0x00, 0x04, 0x08, 0xE7, 0x4E, 0x44], []], results := [.err 0x07 0x00, .err 0x06 0x00] } := by
  decide

/-- V26's first row under LAYOUT_DOC. -/
theorem test_remoteResponse_V26_doc :
    parseCandidate .doc
        [0x00, 0x10, 0x97, 0x01, 0x00, 0x13, 0xA2, 0x00, 0x40, 0x0A, 0x01, 0x27, 0xFF, 0xFE, 0x44, 0x42, 0x00, 0x2C, 0x91] =
      .ok
        { kind := .remoteAtResp,
          raw :=
            [0x00, 0x10, 0x97, 0x01, 0x00, 0x13, 0xA2, 0x00, 0x40, 0x0A, 0x01, 0x27, 0xFF, 0xFE, 0x44, 0x42, 0x00, 0x2C, 0x91],
          apiId := 0x97, frameId := some 0x01,
          commandPayload := [0x00, 0x13, 0xA2, 0x00, 0x40, 0x0A, 0x01, 0x27, 0xFF, 0xFE, 0x44, 0x42, 0x00, 0x2C],
          command := some [0x42], status := some 0x44, statusKind := some .unrecognized, isOk := false,
          address16 := some [0xFF, 0xFE], address64 := some [0x00, 0x13, 0xA2, 0x00, 0x40, 0x0A, 0x01, 0x27],
          signalStrength := some 0x00, nodeId := none } := by rfl

/-- R77: a received Local AT Command frame. -/
theorem test_frameLocalAtCommand :
    resultOf (exec (.frameLocalAtCommand [0x01, 0x4E, 0x44]) State.reset) = some (raisedResults 0x09 0x08) := by decide

/-- R77: a received Remote AT Command frame. -/
theorem test_frameRemoteAtCommand :
    resultOf (exec (.frameRemoteAtCommand [0x01]) State.reset) = some (raisedResults 0x09 0x17) := by decide

/-- V25's last row: a Local AT Command Response frame with the api_id alone is a Response, whichever layout. -/
theorem test_frameLocalAtResponse :
    (resultOf (exec (.frameLocalAtResponse []) recommended)).map (fun r => (r.rstat, r.err, r.results.length)) =
      some (0x01, 0x00, 1) := by decide

/-- A Remote AT Command Response frame. -/
theorem test_frameRemoteAtResponse :
    (resultOf (exec (.frameRemoteAtResponse [0x05]) recommended)).map (fun r => (r.rstat, r.err, r.results.length)) =
      some (0x01, 0x00, 1) := by decide

/-! The host's accesses and the lines. -/

/-- R23, R34: the reserved bits of ARGCTL ignore a write. -/
theorem test_writeReg_argctl : (writeReg 0x01 0xFD State.reset).req.argctl = 0x05 := by decide

/-- R35: a write to a result register is ignored. -/
theorem test_writeReg_rstat : writeReg 0x04 0xFF recommended = recommended := by decide

/-- R21: an unassigned number reads 0. -/
theorem test_readReg_unassigned : readReg 0x07 State.reset = 0x00 := by decide

/-- R54: a buffer read returns the whole content. -/
theorem test_readBuf_in : readBuf 0x15 (withIn [0x7E, 0x00]) = .bytes [0x7E, 0x00] := by decide

/-- R87's example, from its text. -/
theorem test_assemble_R87 :
    (assembleLine "ENC_LOCAL_AT cmd=\"ND\" value=[]".toList).map expandLine =
      some
        [.writeBuf 0x10 [0x4E, 0x44], .writeBuf 0x11 [], .writeReg 0x01 0x07, .writeReg 0x00 0x20,
          .writeReg 0x03 0x00] := by decide

/-- P5's first line, from its text: a hex byte operand. -/
theorem test_assemble_P5 :
    (assembleLine "ENC_LOCAL_AT cmd=\"ND\" value=[] fid=0xE7".toList).map expandLine =
      some
        [.writeBuf 0x10 [0x4E, 0x44], .writeBuf 0x11 [], .writeReg 0x02 0xE7, .writeReg 0x01 0x06, .writeReg 0x00 0x20,
          .writeReg 0x03 0x00] := by decide

/-- An operand R84 does not list for the mnemonic is no line. -/
theorem test_assemble_reject : assembleLine "SPLIT cmd=[4E 44]".toList = none := by decide

/-! Witnesses: states and operands that meet the hypotheses of each statement that has any. -/

/-- A state with an issue to come and results in place: SPLIT of V23's frame was run, and PARSE of a command frame is next. -/
def afterSplit : State :=
  setPending [.writeReg 0x03 0x00]
    (returned { cands := [[0x00, 0x04, 0x08, 0xE7, 0x4E, 0x44], []] }
      (withPending 0x41 [0x00, 0x04, 0x08, 0x01, 0x4E, 0x44, 0x64] []))

theorem witness_StepKeepsStateInvariant :
    CodecInv afterSplit ∧ step afterSplit =
      .next (observe (.issued (raisedResults 0x09 0x08)) (setPending [] (raised 0x09 0x08 afterSplit))) := by
  refine ⟨?_, rfl⟩
  refine ⟨⟨Nat.zero_le _, Nat.zero_le _, Nat.zero_le _, Nat.zero_le _, Nat.zero_le _, ?_, Nat.zero_le _, ?_, Nat.zero_le _⟩,
    show 7 < 8 by decide, .inr (.inl ⟨rfl, rfl, rfl⟩), ?_, ?_, ?_⟩
  · decide
  · decide
  · unfold CandidatesClean
    decide
  · intro r hr
    cases hr
  · intro b hb
    cases hb

theorem witness_StepRunsDecodedInstruction :
    (withPending 0x30 [0x7E] [.writeReg 0x03 0xFF, .readBuf 0x19]).host.pending = .writeReg 0x03 0xFF :: [.readBuf 0x19] ∧
      decode [(withPending 0x30 [0x7E] [.writeReg 0x03 0xFF, .readBuf 0x19]).req.op] = .ok .split ∧
        Instr.split.wellFormed = true := ⟨rfl, rfl, rfl⟩

/-- R74's boundary above the op codes of the parser: 0x43. -/
theorem witness_IllegalOpIssueIsRecorded :
    (withPending 0x43 [] [.writeReg 0x03 0x00]).host.pending = .writeReg 0x03 0x00 :: [] ∧
      (withPending 0x43 [] [.writeReg 0x03 0x00]).req.op.toNat ∉
        [0x10, 0x11, 0x12, 0x13, 0x20, 0x21, 0x22, 0x23, 0x24, 0x30, 0x40, 0x41, 0x42] := by decide

theorem witness_DecodeEncodeRoundTrip : (Instr.frameLocalAtResponse [0x01, 0x4E, 0x44, 0x00]).wellFormed = true := by rfl

/-- The longest frame body that is well formed. -/
theorem witness_DecodeEncodeRoundTrip_longest :
    (Instr.frameLocalAtCommand (List.replicate 0xFFFE 0x00)).wellFormed = true :=
  (frameDataFits_replicate 0xFFFE).trans (by decide)

theorem witness_DecodedBytesAreTheEncoding :
    decode [0x7E, 0x00, 0x04, 0x08, 0x01, 0x4E, 0x44, 0x64] = .ok (.frameLocalAtCommand [0x01, 0x4E, 0x44]) := by rfl

/-- IN of a given length. -/
def longIn (n : Nat) : State := withIn (List.replicate n 0x30)

theorem longIn_length (n : Nat) : (longIn n).req.input.length = n := List.length_replicate

/-- An instance that can hold one byte, and one that can hold none. -/
theorem witness_ChecksumMeaning :
    1 ≤ (withCap 1 (withIn [0xFF])).params.bufCap ∧ (withCap 0 (withIn [])).params.bufCap < 1 := by decide

theorem witness_LengthFieldMeaning_fits :
    (withCap 0xFFFF (longIn 0xFFFF)).req.input.length ≤ 0xFFFF ∧ 2 ≤ (withCap 0xFFFF (longIn 0xFFFF)).params.bufCap :=
  ⟨(longIn_length _).le, by show 2 ≤ 0xFFFF; omega⟩

theorem witness_LengthFieldMeaning_refused :
    (withCap 1 (withIn [0x7E])).req.input.length ≤ 0xFFFF ∧ (withCap 1 (withIn [0x7E])).params.bufCap < 2 := by decide

theorem witness_LengthFieldMeaning_tooLarge : 0xFFFF < (longIn 0x10000).req.input.length := by
  rw [longIn_length]
  omega

/-- The text "aB". -/
theorem witness_HexToBytesMeaning_digits :
    (withIn [0x61, 0x42]).req.input.length % 2 = 0 ∧ (∀ c ∈ (withIn [0x61, 0x42]).req.input, ∃ d, IsDigit c d) ∧
      (withIn [0x61, 0x42]).req.input.length ≤ (withIn [0x61, 0x42]).params.bufCap := by
  refine ⟨rfl, ?_, by decide⟩
  · intro c hc
    simp only [withIn, List.mem_cons, List.not_mem_nil, or_false] at hc
    obtain rfl | rfl := hc
    · exact ⟨10, .inl rfl⟩
    · exact ⟨11, .inr rfl⟩

/-- The inner hypotheses: the byte 0xAB of "aB". -/
theorem witness_HexToBytesMeaning_digit :
    ([0xAB] : Bytes)[0]? = some 0xAB ∧ ([0x61, 0x42] : Bytes)[2 * 0]? = some 0x61 ∧
      ([0x61, 0x42] : Bytes)[2 * 0 + 1]? = some 0x42 ∧ IsDigit 0x61 10 ∧ IsDigit 0x42 11 :=
  ⟨rfl, rfl, rfl, .inl rfl, .inr rfl⟩

theorem witness_HexToBytesMeaning_odd : (withIn [0x37]).req.input.length % 2 = 1 := rfl

/-- The letter after the last digit, "g0". -/
theorem witness_HexToBytesMeaning_noDigit : ∃ c ∈ (withIn [0x67, 0x30]).req.input, ∀ d, ¬IsDigit c d := by
  refine ⟨0x67, List.mem_cons_self, fun d hd => ?_⟩
  have := (hexVal_iff 0x67 d).2 hd
  cases this

/-- IN of 2 bytes, whose text just fits a capacity of 4. -/
theorem witness_BytesToHexMeaning_fits :
    2 * (withCap 4 (withIn [0x7E, 0x00])).req.input.length ≤ (withCap 4 (withIn [0x7E, 0x00])).params.bufCap := by decide

/-- IN of 2 bytes, whose text does not fit a capacity of 3. -/
theorem witness_BytesToHexMeaning_overflow :
    (withCap 3 (withIn [0x7E, 0x00])).params.bufCap < 2 * (withCap 3 (withIn [0x7E, 0x00])).req.input.length := by decide

theorem witness_ChecksumLaws : (0x08 : Byte) ≠ 0x17 := by decide

theorem witness_HexConversionLaws : hexToBytes [0x37, 0x45] = some [0x7E] := by rfl

/-- The four clauses: a short command, the first value too long, and a frame that just fits or just does not. -/
theorem witness_EncLocalAtMeaning :
    (withLocal [0x4E] [] 0x01).req.argCmd.length ≠ 2 ∧
      (withLocal [0x4E, 0x44] [] 0x01).req.argCmd.length = 2 ∧ 4 + (withLocal [0x4E, 0x44] [] 0x01).req.argValue.length ≤ 0xFFFF ∧
        8 + (withCap 8 (withLocal [0x4E, 0x44] [] 0x01)).req.argValue.length ≤
            (withCap 8 (withLocal [0x4E, 0x44] [] 0x01)).params.bufCap ∧
          (withCap 7 (withLocal [0x4E, 0x44] [] 0x01)).params.bufCap <
            8 + (withCap 7 (withLocal [0x4E, 0x44] [] 0x01)).req.argValue.length := by decide

theorem withLocal_value_length (n : Nat) :
    (withLocal [0x4E, 0x44] (List.replicate n 0x00) 0x01).req.argValue.length = n := List.length_replicate

/-- V17's second row. -/
theorem witness_EncLocalAtMeaning_tooLarge :
    (withLocal [0x4E, 0x44] (List.replicate 0xFFFC 0x00) 0x01).req.argCmd.length = 2 ∧
      0xFFFF < 4 + (withLocal [0x4E, 0x44] (List.replicate 0xFFFC 0x00) 0x01).req.argValue.length :=
  ⟨rfl, by rw [withLocal_value_length]; omega⟩

/-- V19's second row: an error; and V20's operands: none, with a capacity that just holds the frame or just does not. -/
theorem witness_EncRemoteAtMeaning :
    (withRemote 0x07 [0xFF] [0x44, 0x30] [] [] []).req.argCmd.length = 2 ∧
      (withRemote 0x07 [0xFF] [0x44, 0x30] [] [] []).req.argAddr16.length ≠ 2 ∧
        (withRemote 0x07 [0xFF, 0xFE] [0x44, 0x30] [0x04] [] []).req.argCmd.length = 2 ∧
          (withRemote 0x07 [0xFF, 0xFE] [0x44, 0x30] [0x04] [] []).req.argAddr16.length = 2 ∧
            (withRemote 0x07 [0xFF, 0xFE] [0x44, 0x30] [0x04] [] []).req.argctl.getLsbD 1 = true ∧
              (withRemote 0x07 [0xFF, 0xFE] [0x44, 0x30] [0x04] [] []).req.argctl.getLsbD 2 = true ∧
                19 + (withCap 20 (withRemote 0x07 [0xFF, 0xFE] [0x44, 0x30] [0x04] [] [])).req.argValue.length ≤ 20 ∧
                  19 < 19 + (withCap 19 (withRemote 0x07 [0xFF, 0xFE] [0x44, 0x30] [0x04] [] [])).req.argValue.length := by
  decide

/-- An error, and the shortest response candidate in an instance that can hold one element and in one that can hold none. -/
theorem witness_ParseMeaning :
    (withIn [0x00, 0x04, 0x08]).req.input.length < 4 ∧
      ¬(withIn [0x00, 0x01, 0x88, 0x77]).req.input.length < 4 ∧
        checksumByte [0x88] = ([0x00, 0x01, 0x88, 0x77] : Bytes).getLastD 0x00 ∧
          1 ≤ (withCap 1 (withIn [0x00, 0x01, 0x88, 0x77])).params.bufCap ∧
            (withCap 0 (withIn [0x00, 0x01, 0x88, 0x77])).params.bufCap < 1 := by decide

theorem witness_BuildersBuildTheirFrameTypes :
    (∃ t, exec .encLocalAt (withLocal [0x4E, 0x44] [] 0x01) = .next t ∧ t.res.err = 0x00) ∧
      ∃ t, exec .encRemoteAt (withRemote 0x07 [0xFF, 0xFE] [0x44, 0x30] [0x04] [] []) = .next t ∧ t.res.err = 0x00 :=
  ⟨⟨_, rfl, rfl⟩, ⟨_, rfl, rfl⟩⟩

/-- A full IN. -/
theorem witness_SplitMeaning : (withCap 2 (withIn [0x7E, 0x7E])).req.input.length ≤ (withCap 2 (withIn [0x7E, 0x7E])).params.bufCap := by
  decide

theorem witness_DecodeStreamMeaning :
    (withIn [0x7E, 0x00, 0x01, 0x88, 0x77]).req.input.length ≤ (withIn [0x7E, 0x00, 0x01, 0x88, 0x77]).params.bufCap ∧
      (splitLoop (withIn [0x7E, 0x00, 0x01, 0x88, 0x77]).req.input)[0]? = some [0x00, 0x01, 0x88, 0x77] := by
  exact ⟨by decide, by rfl⟩

theorem witness_SplitLaws :
    (0x7E : Byte) ∉ ([0x00, 0x04] : Bytes) ∧ (0x7E : Byte) ∉ ([] : Bytes) ∧
      ([0x7E, 0x33] : Bytes).head? = some 0x7E := by decide

/-- V13's frame after its start byte. -/
theorem witness_DelimiterInsideFrameBreaksIt :
    (0x7E : Byte) ∈ ([0x00, 0x04, 0x08, 0xE7, 0x4E, 0x44, 0x7E] : Bytes) := by decide

/-- V7's candidate; the first and the last bit of the first and the last byte. -/
theorem witness_TamperedCandidateFails :
    (∃ t, exec .validate (withIn [0x00, 0x05, 0x88, 0x01, 0x4E, 0x44, 0x00, 0xE4]) = .next t ∧ t.res.err = 0x00) ∧
      0 < (withIn [0x00, 0x05, 0x88, 0x01, 0x4E, 0x44, 0x00, 0xE4]).req.input.length ∧
        7 < (withIn [0x00, 0x05, 0x88, 0x01, 0x4E, 0x44, 0x00, 0xE4]).req.input.length ∧ 0 < 8 ∧ 7 < 8 :=
  ⟨⟨_, rfl, rfl⟩, by decide, by decide, by decide, by decide⟩

/-- V8's build. -/
theorem witness_LocalAtRoundTrip :
    ∃ t, exec .encLocalAt (withLocal [0x4E, 0x44] [] 0x01) = .next t ∧ t.res.err = 0x00 ∧
      t.res.out.drop 1 = [0x00, 0x04, 0x08, 0x01, 0x4E, 0x44, 0x64] := ⟨_, rfl, rfl, rfl⟩

/-- The same candidate as the first of one stream and the second of another. -/
theorem witness_StreamResultsAreIndependent :
    (withIn [0x7E, 0x00, 0x01, 0x88, 0x77]).params.respLayout =
        (withIn [0x7E, 0x33, 0x7E, 0x00, 0x01, 0x88, 0x77]).params.respLayout ∧
    ∃ t₁ t₂, exec .decodeStream (withIn [0x7E, 0x00, 0x01, 0x88, 0x77]) = .next t₁ ∧
      exec .decodeStream (withIn [0x7E, 0x33, 0x7E, 0x00, 0x01, 0x88, 0x77]) = .next t₂ ∧
        t₁.res.cands[0]? = t₂.res.cands[1]? ∧ t₁.res.cands[0]? = some [0x00, 0x01, 0x88, 0x77] :=
  ⟨rfl, _, _, rfl, rfl, rfl, rfl⟩

theorem witness_ResponseExactlyForValidCandidate :
    (∃ t, exec .parse (withIn [0x00, 0x01, 0x88, 0x77]) = .next t) ∧
      ∃ t, exec .decodeStream (withIn [0x7E, 0x00, 0x01, 0x88, 0x77]) = .next t ∧
        t.res.cands[0]? = some [0x00, 0x01, 0x88, 0x77] := ⟨⟨_, rfl⟩, ⟨_, rfl, rfl⟩⟩

theorem witness_CommandFramesAreNotDecoded : ([0x01, 0x4E, 0x44] : Bytes).length + 1 ≤ 0xFFFF := by decide

theorem witness_ResponseFramesAreDecoded : (List.replicate 0xFFFE (0x00 : Byte)).length + 1 ≤ 0xFFFF := by
  rw [List.length_replicate]

theorem witness_ResponseFramesAreDecoded_capacities :
    1 ≤ (withCap 1 recommended).params.bufCap ∧ (withCap 0 recommended).params.bufCap < 1 := by decide

theorem witness_ParseRunsReceivedFrame :
    (Instr.frameLocalAtResponse []).wellFormed = true ∧
      encode (.frameLocalAtResponse []) = 0x7E :: (withIn [0x00, 0x01, 0x88, 0x77]).req.input := ⟨rfl, rfl⟩

theorem witness_OperationsArePrecise :
    (∃ t, exec .encTx (withIn []) = .next t ∧ t.res.rstat = 0x03) ∧
      ∃ t, exec .checksum (withIn []) = .next t ∧ t.res.rstat = 0x01 := ⟨⟨_, rfl, rfl⟩, ⟨_, rfl, rfl⟩⟩

/-- Old results of every kind, so that what an operation leaves empty was not empty before. -/
def withOldResults (s : State) : State :=
  { s with
    res := { Results.reset with out := [0x01], cands := [[0x02]], base := some (baseOf 0x08 []), results := [.err 0x06 0x00] } }

theorem witness_StructuresWrittenByTheirOperations :
    ∃ t, exec .lengthField (withOldResults (withIn [])) = .next t ∧ (withOldResults (withIn [])).res.cands ≠ [] ∧
      Instr.lengthField ∉ [Instr.split, .decodeStream] ∧ Instr.lengthField ≠ .validate :=
  ⟨_, rfl, by decide, by decide, by decide⟩

theorem witness_ResultsDependOnRequestOnly :
    (withIn [0x7E]).req = (withOldResults (withIn [0x7E])).req ∧
      (withIn [0x7E]).params = (withOldResults (withIn [0x7E])).params ∧ (withIn [0x7E]).res ≠ (withOldResults (withIn [0x7E])).res ∧
      ∃ t, exec .split (withIn [0x7E]) = .next t := ⟨rfl, rfl, by decide, _, rfl⟩

/-- The second clause: a refused issue, of a full IN. -/
theorem witness_ResultsDependOnRequestOnly_refused :
    exec .bytesToHex (withCap 1 (withIn [0x7E])) = .refused .resultOverCapacity := by rfl

/-- A full IN in an instance with the recommended capacity. -/
theorem witness_OnlyHexTextOverflows :
    0x10003 ≤ (longIn 0x10003).params.bufCap ∧ WithinCapacity (longIn 0x10003) :=
  ⟨Nat.le_refl _, Nat.zero_le _, Nat.zero_le _, Nat.zero_le _, Nat.zero_le _, Nat.zero_le _, (longIn_length _).le,
    Nat.zero_le _, Nat.zero_le _, Nat.zero_le _⟩

/-- Instances too small for a checksum and for a length field, and one large enough for both. -/
theorem witness_RefusedIssuesAreTheOverfull :
    WithinCapacity (withCap 0 recommended) ∧ exec .checksum (withCap 0 recommended) = .refused .resultOverCapacity ∧
      WithinCapacity (withCap 1 recommended) ∧ exec .lengthField (withCap 1 recommended) = .refused .resultOverCapacity ∧
        WithinCapacity (withCap 2 recommended) ∧ ∃ t, exec .lengthField (withCap 2 recommended) = .next t := by
  unfold WithinCapacity
  exact ⟨by decide, rfl, by decide, rfl, by decide, _, rfl⟩

/-- A builder whose frame is one byte too long, and one whose frame just fits. -/
theorem witness_RefusedIssuesAreTheOverfull_frames :
    exec .encLocalAt (withCap 7 (withLocal [0x4E, 0x44] [] 0x01)) = .refused .resultOverCapacity ∧
      exec .encRemoteAt (withCap 19 (withRemote 0x07 [0xFF, 0xFE] [0x44, 0x30] [0x04] [] [])) = .refused .resultOverCapacity ∧
        exec (.frameLocalAtResponse []) (withCap 0 recommended) = .refused .resultOverCapacity ∧
          ∃ t, exec .encLocalAt (withCap 8 (withLocal [0x4E, 0x44] [] 0x01)) = .next t := ⟨rfl, rfl, rfl, _, rfl⟩

/-- A reset access in a small instance. -/
theorem witness_ParametersNeverChange : ∃ t, step (withCap 5 (withPending 0x10 [] [.reset])) = .next t := ⟨_, rfl⟩

/-- ISSUE's neighbours in the map, one written and one ignored. -/
theorem witness_WriteRegMap :
    (withPending 0x00 [] [.writeReg 0x02 0xE7, .reset]).host.pending = .writeReg 0x02 0xE7 :: [.reset] ∧
      (0x02 : Byte) ≠ 0x03 ∧
        (withPending 0x00 [] [.writeReg 0x04 0xFF]).host.pending = .writeReg 0x04 0xFF :: [] ∧ (0x04 : Byte) ≠ 0x03 := by
  decide

theorem witness_ReadRegMap :
    (withPending 0x00 [] [.readReg 0x06]).host.pending = .readReg 0x06 :: [] ∧
      (withPending 0x00 [] [.readReg 0x07]).host.pending = .readReg 0x07 :: [] := by decide

/-- A write that just fits, and one that does not. -/
theorem witness_WriteBufMap :
    (withCap 1 (withPending 0x00 [] [.writeBuf 0x15 [0x7E]])).host.pending = .writeBuf 0x15 [0x7E] :: [] ∧
      (withCap 0 (withPending 0x00 [] [.writeBuf 0x15 [0x7E]])).host.pending = .writeBuf 0x15 [0x7E] :: [] ∧
        (withCap 0 (withPending 0x00 [] [.writeBuf 0x15 [0x7E]])).params.bufCap < ([0x7E] : Bytes).length := by decide

theorem witness_ReadBufMap :
    (withPending 0x00 [] [.readBuf 0x1B]).host.pending = .readBuf 0x1B :: [] ∧
      (withPending 0x00 [] [.readBuf 0x1C]).host.pending = .readBuf 0x1C :: [] := by decide

theorem witness_RepeatedIssueRepeatsResults :
    (withPending 0x10 [] [.writeReg 0x03 0x00, .writeReg 0x03 0x01]).host.pending =
        .writeReg 0x03 0x00 :: .writeReg 0x03 0x01 :: [] ∧
      ∃ t, step (withPending 0x10 [] [.writeReg 0x03 0x00, .writeReg 0x03 0x01]) = .next t := ⟨rfl, _, rfl⟩

/-- An issue that changes the results, and a write that changes the request. -/
theorem witness_WhoWritesRequestAndResults :
    (∃ t, (withPending 0x10 [] [.writeReg 0x03 0x00]).host.pending = .writeReg 0x03 0x00 :: [] ∧
      step (withPending 0x10 [] [.writeReg 0x03 0x00]) = .next t ∧
        t.res ≠ (withPending 0x10 [] [.writeReg 0x03 0x00]).res) ∧
    ∃ t, (withPending 0x10 [] [.writeBuf 0x10 [0x4E]]).host.pending = .writeBuf 0x10 [0x4E] :: [] ∧
      step (withPending 0x10 [] [.writeBuf 0x10 [0x4E]]) = .next t ∧
        t.req ≠ (withPending 0x10 [] [.writeBuf 0x10 [0x4E]]).req :=
  ⟨⟨_, rfl, rfl, by decide⟩, ⟨_, rfl, rfl, by decide⟩⟩

theorem witness_ResetAccessRestoresResetValues :
    (withPending 0x10 [0x7E] [.reset]).host.pending = .reset :: [] := rfl

theorem witness_IdleCodecHoldsItsState : (withOldResults (withIn [0x7E])).host.pending = [] := rfl

/-- P4's first two steps: two issues, one write of OP, one read; in the smallest instance. -/
theorem witness_RunObservationCount :
    observation { bufCap := 0, respLayout := .doc }
        [.writeReg 0x03 0x00, .writeReg 0x00 0x23, .writeReg 0x03 0x00, .readReg 0x05] =
      some [.issued (raisedResults 0x0A 0x00), .issued (raisedResults 0x05 0x00), .register 0x05 0x05] := by decide

theorem witness_LocalFramePositions :
    ∃ t, exec .encLocalAt (withLocal [0x44, 0x30] [0x05] 0x52) = .next t ∧ t.res.err = 0x00 := ⟨_, rfl, rfl⟩

/-- Every operand named, ARGCTL 0x00. -/
theorem witness_RemoteFramePositions :
    ∃ t, exec .encRemoteAt (withRemote 0x00 [0xFF, 0xFE] [0x44, 0x42] [] [0, 0x13, 0xA2, 0, 0x40, 0x0A, 0x01, 0x27] [0x02]) =
      .next t ∧ t.res.err = 0x00 := ⟨_, rfl, rfl⟩

/-- V2's frame cut before its fourth byte, and before its last. -/
theorem witness_PartialFrameFails :
    ([0x88, 0x01, 0x4E, 0x44, 0x00] : Bytes).length ≤ 0xFFFF ∧ 3 < (candidate [0x88, 0x01, 0x4E, 0x44, 0x00]).length ∧
      7 < (candidate [0x88, 0x01, 0x4E, 0x44, 0x00]).length := by decide

theorem witness_ErrorsByOperation :
    (∃ t, exec .hexToBytes (withIn [0x37]) = .next t ∧ t.res.err = 0x01) ∧
      (∃ t, exec .encLocalAt (withLocal [0x4E] [] 0x01) = .next t ∧ t.res.err = 0x03) ∧
        (∃ t, exec .encRemoteAt (withRemote 0x07 [0xFF] [0x44, 0x30] [] [] []) = .next t ∧ t.res.err = 0x04) ∧
          (∃ t, exec .validate (withIn []) = .next t ∧ t.res.err = 0x06) ∧
            ∃ t, exec .parse (withIn [0x00, 0x01, 0xFF, 0x00]) = .next t ∧ t.res.err = 0x09 ∧ t.res.errInfo = 0xFF :=
  ⟨⟨_, rfl, rfl⟩, ⟨_, rfl, rfl⟩, ⟨_, rfl, rfl⟩, ⟨_, rfl, rfl⟩, ⟨_, rfl, rfl, rfl⟩⟩

theorem witness_ErrorsByOperation_others :
    (∃ t, exec .encTx (withIn []) = .next t ∧ t.res.err = 0x05) ∧
      (∃ t, exec .validate (withIn [0x00, 0x00, 0x00, 0xFF]) = .next t ∧ t.res.err = 0x07) ∧
        ∃ t, exec .parse (withIn [0x00, 0x04, 0x08, 0x01, 0x4E, 0x44, 0x65]) = .next t ∧ t.res.err = 0x08 :=
  ⟨⟨_, rfl, rfl⟩, ⟨_, rfl, rfl⟩, ⟨_, rfl, rfl⟩⟩

theorem execLengthField_tooLarge (s : State) (h : s.req.input.length > Config.maxLen) :
    execLengthField s = .next (raised 0x02 0x00 s) := by
  rw [execLengthField, lengthFieldOf, if_pos h]
  rfl

theorem lengthField_tooLarge {n : Nat} (h : n > Config.maxLen) :
    ∃ t, exec .lengthField (longIn n) = .next t ∧ t.res.err = 0x02 :=
  ⟨_, execLengthField_tooLarge _ (by rw [longIn_length]; exact h), rfl⟩

/-- V10's last row. -/
theorem witness_ErrorsByOperation_tooLarge :
    ∃ t, exec .lengthField (longIn 0x10000) = .next t ∧ t.res.err = 0x02 :=
  lengthField_tooLarge (by decide)

theorem witness_HostWritesCommute :
    writesTo 0x00 (.writeReg 0x00 0x41) = true ∧ writesTo 0x15 (.writeBuf 0x15 [0x7E]) = true ∧ (0x00 : Byte) ≠ 0x15 := by
  decide

end Sys2Proof.Tests
end

namespace Sys2Proof.Machine

/-! What a step that answers a next state did: one inversion lemma for each of `issue`, `performAccess` and `step`. -/

open Sys2Proof.Safety

/-- Everything an instruction that completes can do: raise its error, or return results that fit (R200 to R202). -/
theorem exec_next {i : Instr} {s t : State} (h : exec i s = .next t) :
    (∃ f, outcomeOf i s.params s.req = .error f ∧ t = raised (errorCode f.error) f.info s) ∨
      (∃ w, outcomeOf i s.params s.req = .ok w ∧ fits s.params w = true ∧ t = returned w s) :=
  conclude_next (exec_eq_conclude i s ▸ h)

/-- An issue that completes ran the instruction OP selects, or raised `IllegalOp` (R25, R205). -/
theorem issue_next {s t : State} (h : issue s = .next t) :
    (∃ i, decodeOp s.req.op = .ok i ∧ exec i s = .next t) ∨ t = raised 0x0A s.req.op s := by
  obtain ⟨i, hi, he⟩ | he := issue_cases s
  · exact .inl ⟨i, hi, he ▸ h⟩
  · exact .inr (Host.Outcome.next.inj (he ▸ h)).symm

/-- An observed issue that completes is an issue that completes, with its results observed (R247). -/
theorem observeIssue_next {o : Host.Outcome State Fault Refusal} {t : State} (h : observeIssue o = .next t) :
    ∃ u, o = .next u ∧ t = observe (.issued u.res) u := by
  cases o with
  | next u => exact ⟨u, rfl, (Host.Outcome.next.inj h).symm⟩
  | fault r => cases h
  | refused r => cases h

/-- A buffer write that is not refused replaced the buffer, and its content fits (R55, R60). -/
theorem writeBuf_next {n : Byte} {c : Bytes} {s t : State} (h : writeBuf n c s = .next t) :
    (isBuffer n = true → c.length ≤ s.params.bufCap) ∧ t = replaceBuf n c s := by
  obtain ⟨_, _, he⟩ | ⟨hc, he⟩ := writeBuf_cases n c s
  · rw [he] at h; cases h
  · exact ⟨hc, (Host.Outcome.next.inj (he ▸ h)).symm⟩

/-- Everything an access that is not refused can do (R60). -/
theorem performAccess_next {a : Access} {s t : State} (h : performAccess a s = .next t) :
    (∃ v u, a = .writeReg issueNumber v ∧ issue s = .next u ∧ t = observe (.issued u.res) u) ∨
      (∃ n v, a = .writeReg n v ∧ n ≠ issueNumber ∧ t = writeReg n v s) ∨
      (∃ n, a = .readReg n ∧ t = observe (.register n (readReg n s)) s) ∨
      (∃ n c, a = .writeBuf n c ∧ (isBuffer n = true → c.length ≤ s.params.bufCap) ∧ t = replaceBuf n c s) ∨
      (∃ n, a = .readBuf n ∧ t = observe (.buffer n (readBuf n s)) s) ∨
      (a = .reset ∧ t = resetCodec s) := by
  cases a with
  | writeReg n v =>
    by_cases hn : n = issueNumber
    · subst hn
      obtain ⟨u, hu, ht⟩ := observeIssue_next (o := issue s) h
      exact .inl ⟨v, u, rfl, hu, ht⟩
    · rw [performAccess, if_neg hn] at h
      exact .inr (.inl ⟨n, v, rfl, hn, (Host.Outcome.next.inj h).symm⟩)
  | readReg n => exact .inr (.inr (.inl ⟨n, rfl, (Host.Outcome.next.inj h).symm⟩))
  | writeBuf n c =>
    obtain ⟨hc, ht⟩ := writeBuf_next h
    exact .inr (.inr (.inr (.inl ⟨n, c, rfl, hc, ht⟩)))
  | readBuf n => exact .inr (.inr (.inr (.inr (.inl ⟨n, rfl, (Host.Outcome.next.inj h).symm⟩))))
  | reset => exact .inr (.inr (.inr (.inr (.inr ⟨rfl, (Host.Outcome.next.inj h).symm⟩))))

/-- A step held the state with no access left, or performed the next access (R58, R217). -/
theorem step_next {s t : State} (h : step s = .next t) :
    (s.host.pending = [] ∧ t = s) ∨
      ∃ a rest, s.host.pending = a :: rest ∧ performAccess a (setPending rest s) = .next t := by
  cases hp : s.host.pending with
  | nil => exact .inl ⟨rfl, (Host.Outcome.next.inj (step_idle hp ▸ h)).symm⟩
  | cons a rest => exact .inr ⟨a, rest, rfl, step_access hp ▸ h⟩

end Sys2Proof.Machine

namespace Sys2Proof.Machine

/-! The open parameters: no access changes them (R7, R231). -/

open Sys2Proof.Safety

theorem exec_keeps_params {i : Instr} {s t : State} (h : exec i s = .next t) : t.params = s.params := by
  obtain ⟨f, _, rfl⟩ | ⟨w, _, _, rfl⟩ := exec_next h
  · exact raised_params _ _ s
  · exact returned_params w s

theorem issue_keeps_params {s t : State} (h : issue s = .next t) : t.params = s.params := by
  obtain ⟨i, _, hi⟩ | rfl := issue_next h
  · exact exec_keeps_params hi
  · exact raised_params _ _ s

theorem performAccess_keeps_params {a : Access} {s t : State} (h : performAccess a s = .next t) :
    t.params = s.params := by
  obtain ⟨v, u, _, hu, rfl⟩ | ⟨n, v, _, _, rfl⟩ | ⟨n, _, rfl⟩ | ⟨n, c, _, _, rfl⟩ | ⟨n, _, rfl⟩ | ⟨_, rfl⟩ :=
    performAccess_next h
  case inl => rw [observe_params, issue_keeps_params hu]
  all_goals simp

/-- Settles O3: an access performed by the step keeps the parameters, and so does the removal of the access. -/
theorem parametersNeverChange : Obligations.ParametersNeverChange := by
  unfold Obligations.ParametersNeverChange
  intro s t h
  obtain ⟨_, rfl⟩ | ⟨a, rest, _, ha⟩ := step_next h
  · rfl
  · rw [performAccess_keeps_params ha, setPending_params]

end Sys2Proof.Machine

namespace Sys2Proof.Machine

/-! What the pseudocode of an instruction can come to: an error of R203's table, or results of one of five shapes. -/

open Sys2Proof.Safety

@[simp] theorem remoteResponse_kind (l : RespLayout) (c : Bytes) (b : BaseRecord) :
    (remoteResponse l c b).kind = .remoteAtResp := by cases l <;> rfl
@[simp] theorem remoteResponse_raw (l : RespLayout) (c : Bytes) (b : BaseRecord) :
    (remoteResponse l c b).raw = c := by cases l <;> rfl
@[simp] theorem remoteResponse_apiId (l : RespLayout) (c : Bytes) (b : BaseRecord) :
    (remoteResponse l c b).apiId = b.apiId := by cases l <;> rfl
@[simp] theorem localResponse_kind (l : RespLayout) (c : Bytes) (b : BaseRecord) :
    (localResponse l c b).kind = .localAtResp := by cases l <;> rfl
@[simp] theorem localResponse_raw (l : RespLayout) (c : Bytes) (b : BaseRecord) :
    (localResponse l c b).raw = c := by cases l <;> rfl
@[simp] theorem localResponse_apiId (l : RespLayout) (c : Bytes) (b : BaseRecord) :
    (localResponse l c b).apiId = b.apiId := by cases l <;> rfl

/-- The parser answers a Response exactly when the candidate validates and the dispatch on its base record answers it (R158). -/
theorem parseCandidate_ok_iff (l : RespLayout) (c : Bytes) (r : Response) :
    parseCandidate l c = .ok r ↔ ∃ b, validateCandidate c = .ok b ∧ parseBase l c b = .ok r := by
  unfold parseCandidate
  cases validateCandidate c <;> simp

/-- A Response is of a candidate that validates, with an api_id of its kind (R158, R172). -/
theorem parseCandidate_ok_valid {l : RespLayout} {c : Bytes} {r : Response} (h : parseCandidate l c = .ok r) :
    ∃ body : Bytes, body.length + 1 ≤ 0xFFFF ∧ r.raw = candidate (r.apiId :: body) ∧
      ((r.apiId = 0x88 ∧ r.kind = .localAtResp) ∨ (r.apiId = 0x97 ∧ r.kind = .remoteAtResp)) := by
  obtain ⟨b, hv, hp⟩ := (parseCandidate_ok_iff l c r).mp h
  obtain ⟨api, body, hl, rfl, rfl⟩ := (validateCandidate_ok_iff c b).mp hv
  refine ⟨body, hl, ?_⟩
  obtain ⟨ha, he⟩ | ⟨ha, he⟩ | ⟨_, _, he⟩ := parseBase_cases l (candidateOf (api :: body)) (baseOf api body)
  · cases he.symm.trans hp
    exact ⟨by simp [candidateOf_eq, baseOf], .inr (by simp [ha])⟩
  · cases he.symm.trans hp
    exact ⟨by simp [candidateOf_eq, baseOf], .inl (by simp [ha])⟩
  · cases he.symm.trans hp

/-- An element of RESULTS is a Response exactly when the parser answered that Response (R31). -/
theorem decodeResultOf_eq_ok_iff (x : Except Failure Response) (r : Response) :
    decodeResultOf x = .ok r ↔ x = .ok r := by
  cases x <;> simp [decodeResultOf]

/-- The base record of a frame that validates has the frame's api_id (R155). -/
theorem validateCandidate_candidateOf_apiId {api : Byte} {body : Bytes} {b : BaseRecord}
    (h : validateCandidate (candidateOf (api :: body)) = .ok b) : b.apiId = api := by
  obtain ⟨api', body', _, hc, rfl⟩ := (validateCandidate_ok_iff _ b).mp h
  exact (List.cons.inj (candidateOf_inj hc)).1.symm

/-- The results of a received response frame are those of the parser on its candidate (log entry 4). -/
theorem receivedOutcome_ok_parse {l : RespLayout} {api : Byte} {body : Bytes}
    {d : Bytes → BaseRecord → Except Failure Response} {w : Written}
    (hd : ∀ c b, b.apiId = api → d c b = parseBase l c b) (h : receivedOutcome api body d = .ok w) :
    ∃ c r, parseCandidate l c = .ok r ∧ w = { results := [.ok r] } := by
  obtain ⟨b, r, hv, hr, hw⟩ := receivedOutcome_ok h
  rw [hd _ b (validateCandidate_candidateOf_apiId hv)] at hr
  exact ⟨_, r, (parseCandidate_ok_iff l _ r).mpr ⟨b, hv, hr⟩, hw⟩

/-- An outcome that is an error of the table or a `Finalize` raises only errors of the table (R120, R203). -/
theorem builder_error_ne_none {r : Except Failure Written} {f : Failure}
    (hr : (∃ g, g.error ≠ .none ∧ r = .error g) ∨ ∃ data, r = finalize data) (h : r = .error f) : f.error ≠ .none := by
  obtain ⟨g, hg, he⟩ | ⟨data, rfl⟩ := hr
  · cases he.symm.trans h; exact hg
  · obtain ⟨_, he⟩ | ⟨_, he⟩ := finalize_cases data
    · cases he.symm.trans h; simp
    · cases he.symm.trans h

/-- An outcome that is an error or a `Finalize` writes OUT alone (R120). -/
theorem builder_ok {r : Except Failure Written} {w : Written}
    (hr : (∃ g, g.error ≠ .none ∧ r = .error g) ∨ ∃ data, r = finalize data) (h : r = .ok w) : ∃ o, w = { out := o } := by
  obtain ⟨g, _, he⟩ | ⟨data, rfl⟩ := hr
  · cases he.symm.trans h
  · obtain ⟨_, he⟩ | ⟨_, he⟩ := finalize_cases data
    · cases he.symm.trans h
    · exact ⟨_, (Except.ok.inj (he.symm.trans h)).symm⟩

/-- The local builder raises an error of the table, or comes to a `Finalize` (R122). -/
theorem buildLocalAt_cases (q : Request) :
    (∃ f, f.error ≠ .none ∧ buildLocalAt q = .error f) ∨ ∃ data, buildLocalAt q = finalize data := by
  unfold buildLocalAt
  obtain ⟨_, hc⟩ | ⟨_, hc⟩ := commandOperand_cases q <;> rw [hc]
  · exact .inr ⟨_, rfl⟩
  · exact .inl ⟨_, by simp, rfl⟩

/-- The remote builder raises an error of the table, or comes to a `Finalize` (R124). -/
theorem buildRemoteAt_cases (q : Request) :
    (∃ f, f.error ≠ .none ∧ buildRemoteAt q = .error f) ∨ ∃ data, buildRemoteAt q = finalize data := by
  unfold buildRemoteAt
  obtain ⟨_, hc⟩ | ⟨_, hc⟩ := commandOperand_cases q <;> simp only [hc]
  case inr => exact .inl ⟨_, by simp, rfl⟩
  obtain ⟨_, h16⟩ | ⟨_, h16⟩ := addr16Operand_cases q <;> simp only [h16]
  case inr => exact .inl ⟨_, by simp, rfl⟩
  obtain ⟨_, h64⟩ | ⟨_, _, h64⟩ | ⟨_, _, h64⟩ := addr64Operand_cases q <;> simp only [h64]
  case inr.inr => exact .inl ⟨_, by simp, rfl⟩
  all_goals
    obtain ⟨_, ho⟩ | ⟨_, _, ho⟩ | ⟨_, _, ho⟩ := optionsOperand_cases q <;> simp only [ho]
    case inr.inr => exact .inl ⟨_, by simp, rfl⟩
    all_goals exact .inr ⟨_, rfl⟩

/-- What an instruction raises is an error of R203's table, never NONE. -/
theorem outcomeOf_error_ne_none {i : Instr} {p : Params} {q : Request} {f : Failure}
    (h : outcomeOf i p q = .error f) : f.error ≠ .none := by
  cases i <;> simp only [outcomeOf] at h
  case checksum | bytesToHex | split | decodeStream => cases h
  case lengthField | hexToBytes =>
    split at h
    · cases h; simp
    · cases h
  case encLocalAt => exact builder_error_ne_none (buildLocalAt_cases q) h
  case encRemoteAt => exact builder_error_ne_none (buildRemoteAt_cases q) h
  case encQueuedAt | encTx | encExplicitTx => cases h; simp
  case validate =>
    split at h
    · cases h; exact validateCandidate_error_ne_none ‹_›
    · cases h
  case parse =>
    split at h
    · cases h; exact parseCandidate_error_ne_none ‹_›
    · cases h
  case frameLocalAtCommand | frameRemoteAtCommand =>
    obtain hv | ⟨b, _, hd⟩ := receivedOutcome_error h
    · exact validateCandidate_error_ne_none hv
    · cases hd; simp
  case frameLocalAtResponse | frameRemoteAtResponse =>
    obtain hv | ⟨b, _, hd⟩ := receivedOutcome_error h
    · exact validateCandidate_error_ne_none hv
    · cases hd

/-- The results an instruction can write: OUT alone, the candidates of IN, the base record of IN, one Response of the parser, or
the candidates of IN with the parser's result for each. -/
theorem outcomeOf_ok_cases {i : Instr} {p : Params} {q : Request} {w : Written} (h : outcomeOf i p q = .ok w) :
    (∃ o, w = { out := o }) ∨
      w = { cands := splitFrames q.input } ∨
      (∃ b, validateCandidate q.input = .ok b ∧ w = { base := some b }) ∨
      (∃ c r, parseCandidate p.respLayout c = .ok r ∧ w = { results := [.ok r] }) ∨
      w =
        { cands := splitFrames q.input
          results := (splitFrames q.input).map fun c => decodeResultOf (parseCandidate p.respLayout c) } := by
  cases i <;> simp only [outcomeOf] at h
  case checksum | bytesToHex => exact .inl ⟨_, (Except.ok.inj h).symm⟩
  case lengthField | hexToBytes =>
    split at h
    · cases h
    · exact .inl ⟨_, (Except.ok.inj h).symm⟩
  case encLocalAt => exact .inl (builder_ok (buildLocalAt_cases q) h)
  case encRemoteAt => exact .inl (builder_ok (buildRemoteAt_cases q) h)
  case encQueuedAt | encTx | encExplicitTx => cases h
  case split => exact .inr (.inl (Except.ok.inj h).symm)
  case validate =>
    split at h
    · cases h
    · exact .inr (.inr (.inl ⟨_, ‹_›, (Except.ok.inj h).symm⟩))
  case parse =>
    split at h
    · cases h
    · exact .inr (.inr (.inr (.inl ⟨_, _, ‹_›, (Except.ok.inj h).symm⟩)))
  case decodeStream => exact .inr (.inr (.inr (.inr (Except.ok.inj h).symm)))
  case frameLocalAtCommand | frameRemoteAtCommand =>
    obtain ⟨_, _, _, hd, _⟩ := receivedOutcome_ok h
    cases hd
  case frameLocalAtResponse =>
    refine .inr (.inr (.inr (.inl (receivedOutcome_ok_parse (fun c b hb => ?_) h))))
    simp [parseBase, hb, Config.apiLocalAtResp, Config.apiRemoteAtResp]
  case frameRemoteAtResponse =>
    refine .inr (.inr (.inr (.inl (receivedOutcome_ok_parse (fun c b hb => ?_) h))))
    simp [parseBase, hb]

end Sys2Proof.Machine

namespace Sys2Proof.Machine

/-! The invariant of the codec's state: each operation of the model keeps it. -/

open Sys2Proof.Safety

/-- No candidate of the splitter contains the start byte (R143). -/
theorem startByte_notMem_splitFrames {s c : Bytes} (h : c ∈ splitFrames s) : (0x7E : Byte) ∉ c :=
  startByte_notMem_segments s c (List.mem_of_mem_drop h)

/-- A step that leaves the request as it was keeps the capacity bounds when its results are within them. -/
theorem withinCapacity_of_req_eq {s t : State} (h : WithinCapacity s) (hreq : t.req = s.req) (hparams : t.params = s.params)
    (hout : t.res.out.length ≤ s.params.bufCap) (hcands : t.res.cands.length ≤ s.params.bufCap)
    (hresults : t.res.results.length ≤ s.params.bufCap) : WithinCapacity t := by
  obtain ⟨hcmd, hvalue, h16, h64, hopt, hin, _, _, _⟩ := h
  rw [WithinCapacity, hreq, hparams]
  exact ⟨hcmd, hvalue, h16, h64, hopt, hin, hout, hcands, hresults⟩

/-- What leaves the result registers and structures as they were keeps the invariant when the request still meets its part. -/
theorem codecInv_of_res_eq {s t : State} (h : CodecInv s) (hres : t.res = s.res) (hcap : WithinCapacity t)
    (hargctl : ReservedBitsZero t) : CodecInv t := by
  obtain ⟨_, _, hstatus, hcands, hresponses, hbase⟩ := h
  refine ⟨hcap, hargctl, ?_, ?_, ?_, ?_⟩
  · rwa [StatusConsistent, hres]
  · rwa [CandidatesClean, hres]
  · rwa [ResponsesValid, hres]
  · rwa [BaseValid, hres]

/-- The reset values of R40 meet the invariant, whatever the parameters are. -/
theorem codecInv_of_reset {s : State} (hreq : s.req = Request.reset) (hres : s.res = Results.reset) : CodecInv s := by
  refine ⟨?_, ?_, .inl ⟨?_, hres⟩, ?_, ?_, ?_⟩
  · simp [WithinCapacity, hreq, hres, Request.reset, Results.reset]
  · simp [ReservedBitsZero, hreq, Request.reset]
  · simp [hres, Results.reset]
  · simp [CandidatesClean, hres, Results.reset]
  · simp [ResponsesValid, hres, Results.reset]
  · simp [BaseValid, hres, Results.reset]

/-- The invariant does not speak of the accesses to come. -/
theorem codecInv_setPending (l : List Access) (s : State) : CodecInv (setPending l s) ↔ CodecInv s := Iff.rfl

/-- The invariant does not speak of what the host has observed. -/
theorem codecInv_observe (o : Observation) (s : State) : CodecInv (observe o s) ↔ CodecInv s := Iff.rfl

/-- ARGCTL's mask leaves no reserved bit (R34). -/
theorem and_argctlMask_lt (v : Byte) : (v &&& argctlMask).toNat < 8 := by
  rw [BitVec.toNat_and]
  exact Nat.lt_succ_of_le Nat.and_le_right

theorem writeReg_keeps_withinCapacity {n v : Byte} {s : State} (h : WithinCapacity s) :
    WithinCapacity (writeReg n v s) := by
  unfold writeReg
  split <;> exact h

theorem writeReg_keeps_reservedBitsZero {n v : Byte} {s : State} (h : ReservedBitsZero s) :
    ReservedBitsZero (writeReg n v s) := by
  unfold writeReg
  split
  case h_2 => exact and_argctlMask_lt v
  all_goals exact h

theorem replaceBuf_keeps_reservedBitsZero {n : Byte} {c : Bytes} {s : State} (h : ReservedBitsZero s) :
    ReservedBitsZero (replaceBuf n c s) := by
  unfold replaceBuf
  split <;> exact h

/-- A buffer replaced by a content that fits is within capacity (R55). -/
theorem replaceBuf_keeps_withinCapacity {n : Byte} {c : Bytes} {s : State} (h : WithinCapacity s)
    (hc : isBuffer n = true → c.length ≤ s.params.bufCap) : WithinCapacity (replaceBuf n c s) := by
  obtain ⟨hcmd, hvalue, h16, h64, hopt, hin, hres⟩ := h
  unfold replaceBuf
  split
  case h_1 hn => exact ⟨hc (by simp [isBuffer, hn]), hvalue, h16, h64, hopt, hin, hres⟩
  case h_2 hn => exact ⟨hcmd, hc (by simp [isBuffer, hn]), h16, h64, hopt, hin, hres⟩
  case h_3 hn => exact ⟨hcmd, hvalue, hc (by simp [isBuffer, hn]), h64, hopt, hin, hres⟩
  case h_4 hn => exact ⟨hcmd, hvalue, h16, hc (by simp [isBuffer, hn]), hopt, hin, hres⟩
  case h_5 hn => exact ⟨hcmd, hvalue, h16, h64, hc (by simp [isBuffer, hn]), hin, hres⟩
  case h_6 hn => exact ⟨hcmd, hvalue, h16, h64, hopt, hc (by simp [isBuffer, hn]), hres⟩
  case h_7 => exact ⟨hcmd, hvalue, h16, h64, hopt, hin, hres⟩

theorem writeReg_keeps_codecInv {n v : Byte} {s : State} (h : CodecInv s) : CodecInv (writeReg n v s) := by
  have ⟨hcap, hargctl, _⟩ := h
  exact codecInv_of_res_eq h (writeReg_res n v s) (writeReg_keeps_withinCapacity hcap)
    (writeReg_keeps_reservedBitsZero hargctl)

theorem replaceBuf_keeps_codecInv {n : Byte} {c : Bytes} {s : State} (h : CodecInv s)
    (hc : isBuffer n = true → c.length ≤ s.params.bufCap) : CodecInv (replaceBuf n c s) := by
  have ⟨hcap, hargctl, _⟩ := h
  exact codecInv_of_res_eq h (replaceBuf_res n c s) (replaceBuf_keeps_withinCapacity hcap hc)
    (replaceBuf_keeps_reservedBitsZero hargctl)

/-- A raise of an error of R203's table keeps the invariant: it leaves every result structure empty (R200, R201). -/
theorem raised_keeps_codecInv {code info : Byte} {s : State} (h : CodecInv s) (hpos : code ≠ 0x00)
    (hle : code.toNat ≤ 0x0A) : CodecInv (raised code info s) := by
  obtain ⟨hcap, hargctl, _⟩ := h
  have hone : 1 ≤ code.toNat := Nat.one_le_iff_ne_zero.mpr fun hz => hpos (BitVec.eq_of_toNat_eq hz)
  refine ⟨?_, hargctl, .inr (.inr ⟨rfl, hone, hle, rfl, rfl, rfl, rfl⟩), ?_, ?_, ?_⟩
  · exact withinCapacity_of_req_eq hcap rfl rfl (Nat.zero_le _) (Nat.zero_le _) (Nat.zero_le _)
  · simp [CandidatesClean, raised]
  · simp [ResponsesValid, raised]
  · simp [BaseValid, raised]

/-- A return of results that fit keeps the invariant when the results meet it (R55, R202). -/
theorem returned_keeps_codecInv {w : Written} {s : State} (h : CodecInv s) (hfits : fits s.params w = true)
    (hcands : CandidatesClean (returned w s)) (hresponses : ResponsesValid (returned w s))
    (hbase : BaseValid (returned w s)) : CodecInv (returned w s) := by
  obtain ⟨hcap, hargctl, _⟩ := h
  obtain ⟨ho, hc, hr⟩ := (fits_iff s.params w).mp hfits
  exact ⟨withinCapacity_of_req_eq hcap rfl rfl ho hc hr, hargctl, .inr (.inl ⟨rfl, rfl, rfl⟩), hcands, hresponses, hbase⟩

/-- Candidates an instruction writes are the splitter's (R143). -/
theorem outcomeOf_candidatesClean {i : Instr} {p : Params} {q : Request} {w : Written} (s : State)
    (h : outcomeOf i p q = .ok w) : CandidatesClean (returned w s) := by
  intro c hc
  obtain ⟨o, rfl⟩ | rfl | ⟨b, _, rfl⟩ | ⟨d, r, _, rfl⟩ | rfl := outcomeOf_ok_cases h
  case inr.inl | inr.inr.inr.inr => exact startByte_notMem_splitFrames hc
  all_goals cases hc

/-- Responses an instruction writes are the parser's (R172). -/
theorem outcomeOf_responsesValid {i : Instr} {p : Params} {q : Request} {w : Written} (s : State)
    (h : outcomeOf i p q = .ok w) : ResponsesValid (returned w s) := by
  intro r hr
  obtain ⟨o, rfl⟩ | rfl | ⟨b, _, rfl⟩ | ⟨c, r', hp, rfl⟩ | rfl := outcomeOf_ok_cases h
  case inr.inr.inr.inl =>
    obtain rfl : r = r' := DecodeResult.ok.inj (List.mem_singleton.mp hr)
    exact parseCandidate_ok_valid hp
  case inr.inr.inr.inr =>
    obtain ⟨c, _, hc⟩ := List.mem_map.mp hr
    exact parseCandidate_ok_valid ((decodeResultOf_eq_ok_iff _ r).mp hc)
  all_goals cases hr

/-- A base record an instruction writes is the validator's (R156). -/
theorem outcomeOf_baseValid {i : Instr} {p : Params} {q : Request} {w : Written} (s : State)
    (h : outcomeOf i p q = .ok w) : BaseValid (returned w s) := by
  intro b hb
  obtain ⟨o, rfl⟩ | rfl | ⟨b', hv, rfl⟩ | ⟨c, r, _, rfl⟩ | rfl := outcomeOf_ok_cases h
  case inr.inr.inl =>
    obtain rfl : b' = b := Option.some.inj hb
    obtain ⟨api, body, hl, _, he⟩ := (validateCandidate_ok_iff q.input b').mp hv
    exact ⟨api, body, hl, he⟩
  all_goals cases hb

/-- Every instruction that completes keeps the invariant, a received frame included. -/
theorem exec_keeps_codecInv {i : Instr} {s t : State} (h : CodecInv s) (he : exec i s = .next t) : CodecInv t := by
  obtain ⟨f, hf, rfl⟩ | ⟨w, hw, hfits, rfl⟩ := exec_next he
  · exact raised_keeps_codecInv h (mt errorCode_eq_zero.mp (outcomeOf_error_ne_none hf)) (errorCode_le f.error)
  · exact returned_keeps_codecInv h hfits (outcomeOf_candidatesClean s hw) (outcomeOf_responsesValid s hw)
      (outcomeOf_baseValid s hw)

theorem issue_keeps_codecInv {s t : State} (h : CodecInv s) (hi : issue s = .next t) : CodecInv t := by
  obtain ⟨i, _, he⟩ | rfl := issue_next hi
  · exact exec_keeps_codecInv h he
  · exact raised_keeps_codecInv h (by decide) (by decide)

theorem performAccess_keeps_codecInv {a : Access} {s t : State} (h : CodecInv s) (ha : performAccess a s = .next t) :
    CodecInv t := by
  obtain ⟨v, u, _, hu, rfl⟩ | ⟨n, v, _, _, rfl⟩ | ⟨n, _, rfl⟩ | ⟨n, c, _, hc, rfl⟩ | ⟨n, _, rfl⟩ | ⟨_, rfl⟩ :=
    performAccess_next ha
  · exact (codecInv_observe _ u).mpr (issue_keeps_codecInv h hu)
  · exact writeReg_keeps_codecInv h
  · exact (codecInv_observe _ s).mpr h
  · exact replaceBuf_keeps_codecInv h hc
  · exact (codecInv_observe _ s).mpr h
  · exact codecInv_of_reset (resetCodec_req s) (resetCodec_res s)

/-- Settles O4: every access of the host keeps the invariant, and so does the removal of the access. -/
theorem stepKeepsStateInvariant : Obligations.StepKeepsStateInvariant := by
  unfold Obligations.StepKeepsStateInvariant
  intro s t h hstep
  obtain ⟨_, rfl⟩ | ⟨a, rest, _, ha⟩ := step_next hstep
  · exact h
  · exact performAccess_keeps_codecInv ((codecInv_setPending rest s).mpr h) ha

end Sys2Proof.Machine

namespace Sys2Proof.Machine

/-! What an instruction does, from what its pseudocode comes to: it keeps the request and the host's side, raises with no partial
result, and writes the result structures of its own (R28 to R31, R39, R200 to R202). -/

open Sys2Proof.Safety

@[simp] theorem returned_rstat (w : Written) (s : State) : (returned w s).res.rstat = 0x01 := rfl
@[simp] theorem returned_err (w : Written) (s : State) : (returned w s).res.err = 0x00 := rfl
@[simp] theorem returned_errInfo (w : Written) (s : State) : (returned w s).res.errInfo = 0x00 := rfl
@[simp] theorem returned_out (w : Written) (s : State) : (returned w s).res.out = w.out := rfl
@[simp] theorem returned_cands (w : Written) (s : State) : (returned w s).res.cands = w.cands := rfl
@[simp] theorem returned_base (w : Written) (s : State) : (returned w s).res.base = w.base := rfl
@[simp] theorem returned_results (w : Written) (s : State) : (returned w s).res.results = w.results := rfl
@[simp] theorem raised_out (c i : Byte) (s : State) : (raised c i s).res.out = [] := rfl
@[simp] theorem raised_cands (c i : Byte) (s : State) : (raised c i s).res.cands = [] := rfl
@[simp] theorem raised_base (c i : Byte) (s : State) : (raised c i s).res.base = none := rfl
@[simp] theorem raised_results (c i : Byte) (s : State) : (raised c i s).res.results = [] := rfl

/-- An error of R203's table has a number from 0x01 on. -/
theorem one_le_errorCode {e : ErrorCode} (h : e ≠ .none) : 1 ≤ (errorCode e).toNat :=
  Nat.one_le_iff_ne_zero.mpr fun hz => h (errorCode_eq_zero.mp (BitVec.eq_of_toNat_eq hz))

/-- An instruction whose pseudocode raises. -/
theorem exec_of_error {i : Instr} {s : State} {f : Failure} (h : outcomeOf i s.params s.req = .error f) :
    exec i s = .next (raised (errorCode f.error) f.info s) := by
  rw [exec_eq_conclude, h, conclude_error]

/-- An instruction whose pseudocode returns results that fit. -/
theorem exec_of_ok {i : Instr} {s : State} {w : Written} (h : outcomeOf i s.params s.req = .ok w)
    (hfits : fits s.params w = true) : exec i s = .next (returned w s) := by
  rw [exec_eq_conclude, h, conclude_ok hfits]

/-- An instruction whose pseudocode returns results that do not fit (R55). -/
theorem exec_of_overCapacity {i : Instr} {s : State} {w : Written} (h : outcomeOf i s.params s.req = .ok w)
    (hfits : fits s.params w = false) : exec i s = .refused .resultOverCapacity := by
  rw [exec_eq_conclude, h, conclude_overCapacity hfits]

/-- A refused instruction returned results that do not fit (R55). -/
theorem exec_refused {i : Instr} {s : State} {r : Refusal} (h : exec i s = .refused r) :
    r = .resultOverCapacity ∧ ∃ w, outcomeOf i s.params s.req = .ok w ∧ fits s.params w = false := by
  obtain ⟨f, _, he⟩ | ⟨w, _, _, he⟩ | ⟨w, hw, hfits, he⟩ := exec_cases i s
  · cases he.symm.trans h
  · cases he.symm.trans h
  · exact ⟨(Host.Outcome.refused.inj (he.symm.trans h)).symm, w, hw, hfits⟩

theorem exec_keeps_req {i : Instr} {s t : State} (h : exec i s = .next t) : t.req = s.req := by
  obtain ⟨f, _, rfl⟩ | ⟨w, _, _, rfl⟩ := exec_next h
  · exact raised_req _ _ s
  · exact returned_req w s

theorem exec_keeps_host {i : Instr} {s t : State} (h : exec i s = .next t) : t.host = s.host := by
  obtain ⟨f, _, rfl⟩ | ⟨w, _, _, rfl⟩ := exec_next h
  · exact raised_host _ _ s
  · exact returned_host w s

theorem issue_keeps_req {s t : State} (h : issue s = .next t) : t.req = s.req := by
  obtain ⟨i, _, hi⟩ | rfl := issue_next h
  · exact exec_keeps_req hi
  · exact raised_req _ _ s

/-- Settles O39: an instruction that completes raised an error of the table or returned. -/
theorem operationsArePrecise : Obligations.OperationsArePrecise := by
  unfold Obligations.OperationsArePrecise
  intro i s t h
  refine ⟨exec_keeps_req h, exec_keeps_host h, exec_keeps_params h, ?_⟩
  obtain ⟨f, hf, rfl⟩ | ⟨w, _, _, rfl⟩ := exec_next h
  · exact .inr ⟨_, _, one_le_errorCode (outcomeOf_error_ne_none hf), errorCode_le f.error, rfl⟩
  · exact .inl ⟨returned_rstat w s, returned_err w s, returned_errInfo w s⟩

/-- Which instruction writes which structures: OUT, CANDS, BASE, both CANDS and RESULTS, or RESULTS alone (R28 to R31). -/
theorem outcomeOf_ok_writes {i : Instr} {p : Params} {q : Request} {w : Written} (h : outcomeOf i p q = .ok w) :
    (i ∈ [Instr.checksum, .lengthField, .hexToBytes, .bytesToHex, .encLocalAt, .encRemoteAt] ∧ ∃ o, w = { out := o }) ∨
      (i = .split ∧ ∃ l, w = { cands := l }) ∨
      (i = .validate ∧ ∃ b, w = { base := b }) ∨
      (i = .decodeStream ∧ ∃ l r, w = { cands := l, results := r }) ∨
      ((i = .parse ∨ (∃ body, i = .frameLocalAtResponse body) ∨ ∃ body, i = .frameRemoteAtResponse body) ∧
        ∃ r, w = { results := r }) := by
  cases i <;> simp only [outcomeOf] at h
  case checksum | bytesToHex => exact .inl ⟨by simp, _, (Except.ok.inj h).symm⟩
  case lengthField | hexToBytes =>
    split at h
    · cases h
    · exact .inl ⟨by simp, _, (Except.ok.inj h).symm⟩
  case encLocalAt => exact .inl ⟨by simp, builder_ok (buildLocalAt_cases q) h⟩
  case encRemoteAt => exact .inl ⟨by simp, builder_ok (buildRemoteAt_cases q) h⟩
  case encQueuedAt | encTx | encExplicitTx => cases h
  case split => exact .inr (.inl ⟨rfl, _, (Except.ok.inj h).symm⟩)
  case validate =>
    split at h
    · cases h
    · exact .inr (.inr (.inl ⟨rfl, _, (Except.ok.inj h).symm⟩))
  case decodeStream => exact .inr (.inr (.inr (.inl ⟨rfl, _, _, (Except.ok.inj h).symm⟩)))
  case parse =>
    split at h
    · cases h
    · exact .inr (.inr (.inr (.inr ⟨.inl rfl, _, (Except.ok.inj h).symm⟩)))
  case frameLocalAtCommand | frameRemoteAtCommand =>
    obtain ⟨_, _, _, hd, _⟩ := receivedOutcome_ok h
    cases hd
  case frameLocalAtResponse body =>
    obtain ⟨_, _, _, _, hw⟩ := receivedOutcome_ok h
    exact .inr (.inr (.inr (.inr ⟨.inr (.inl ⟨body, rfl⟩), _, hw⟩)))
  case frameRemoteAtResponse body =>
    obtain ⟨_, _, _, _, hw⟩ := receivedOutcome_ok h
    exact .inr (.inr (.inr (.inr ⟨.inr (.inr ⟨body, rfl⟩), _, hw⟩)))

/-- Settles O41: a raise leaves every structure empty, and a return those that are not the instruction's own. -/
theorem structuresWrittenByTheirOperations : Obligations.StructuresWrittenByTheirOperations := by
  unfold Obligations.StructuresWrittenByTheirOperations
  intro i s t h
  obtain ⟨f, _, rfl⟩ | ⟨w, hw, _, rfl⟩ := exec_next h
  · simp
  · obtain ⟨hi, o, rfl⟩ | ⟨rfl, l, rfl⟩ | ⟨rfl, b, rfl⟩ | ⟨rfl, l, r, rfl⟩ | ⟨hi, r, rfl⟩ := outcomeOf_ok_writes hw
    case inl => exact ⟨fun hn => absurd hi hn, by simp⟩
    case inr.inr.inr.inr =>
      obtain rfl | ⟨body, rfl⟩ | ⟨body, rfl⟩ := hi <;> simp
    all_goals simp

/-- Settles O42: what the pseudocode comes to, and whether it fits, are functions of the request and the parameters. -/
theorem resultsDependOnRequestOnly : Obligations.ResultsDependOnRequestOnly := by
  unfold Obligations.ResultsDependOnRequestOnly
  intro i s₁ s₂ hreq hparams
  constructor
  · intro t₁ h
    obtain ⟨f, hf, rfl⟩ | ⟨w, hw, hfits, rfl⟩ := exec_next h
    · rw [hreq, hparams] at hf
      exact ⟨_, exec_of_error hf, rfl⟩
    · rw [hparams] at hw hfits
      rw [hreq] at hw
      exact ⟨_, exec_of_ok hw hfits, rfl⟩
  · intro r h
    obtain ⟨rfl, w, hw, hfits⟩ := exec_refused h
    rw [hparams] at hw hfits
    rw [hreq] at hw
    exact exec_of_overCapacity hw hfits

end Sys2Proof.Machine

namespace Sys2Proof.Machine

/-! The map of R21 as the host's four accesses see it (R60), and the steps that perform them. The model selects by the number's
value, the map by the number itself: `BitVec.toNat_eq` turns the one comparison into the other, and the branches then agree. -/

/-- What a register write leaves, number by number (R21, R34, R35). -/
theorem writeReg_eq (n v : Byte) (s : State) :
    writeReg n v s =
      { s with
        req :=
          if n = 0x00 then { s.req with op := v }
          else if n = 0x01 then { s.req with argctl := v &&& 0x07 }
          else if n = 0x02 then { s.req with frameId := v }
          else s.req } := by
  simp only [BitVec.toNat_eq]
  unfold writeReg
  split <;> simp_all [argctlMask]

/-- What a register read returns, number by number (R21, R25, R34). -/
theorem readReg_eq (n : Byte) (s : State) :
    readReg n s =
      if n = 0x00 then s.req.op
      else if n = 0x01 then s.req.argctl &&& 0x07
      else if n = 0x02 then s.req.frameId
      else if n = 0x04 then s.res.rstat &&& 0x03
      else if n = 0x05 then s.res.err
      else if n = 0x06 then s.res.errInfo
      else 0x00 := by
  simp only [BitVec.toNat_eq (x := n)]
  unfold readReg
  split <;> simp_all [argctlMask, rstatMask]

/-- What a buffer write that is not refused leaves, number by number (R21, R35). -/
theorem replaceBuf_eq (n : Byte) (c : Bytes) (s : State) :
    replaceBuf n c s =
      { s with
        req :=
          if n = 0x10 then { s.req with argCmd := c }
          else if n = 0x11 then { s.req with argValue := c }
          else if n = 0x12 then { s.req with argAddr16 := c }
          else if n = 0x13 then { s.req with argAddr64 := c }
          else if n = 0x14 then { s.req with argOptions := c }
          else if n = 0x15 then { s.req with input := c }
          else s.req } := by
  simp only [BitVec.toNat_eq]
  unfold replaceBuf
  split <;> simp_all

/-- What a buffer read returns, number by number (R21, R54). -/
theorem readBuf_eq (n : Byte) (s : State) :
    readBuf n s =
      if n = 0x10 then .bytes s.req.argCmd
      else if n = 0x11 then .bytes s.req.argValue
      else if n = 0x12 then .bytes s.req.argAddr16
      else if n = 0x13 then .bytes s.req.argAddr64
      else if n = 0x14 then .bytes s.req.argOptions
      else if n = 0x15 then .bytes s.req.input
      else if n = 0x18 then .bytes s.res.out
      else if n = 0x19 then .cands s.res.cands
      else if n = 0x1A then .base s.res.base
      else if n = 0x1B then .results s.res.results
      else .bytes [] := by
  simp only [BitVec.toNat_eq (x := n)]
  unfold readBuf
  split <;> simp_all

/-- The buffers of R21's map. -/
theorem isBuffer_iff (n : Byte) : isBuffer n = true ↔ n ∈ ([0x10, 0x11, 0x12, 0x13, 0x14, 0x15, 0x18] : List Byte) := by
  simp only [isBuffer, BitVec.toNat_eq (x := n), Bool.or_eq_true, decide_eq_true_eq, List.mem_cons, List.not_mem_nil,
    BitVec.reduceToNat, or_false]
  omega

/-- A buffer write is refused at a buffer's number when it is longer than the capacity (R55), else it replaces the buffer. -/
theorem writeBuf_eq (n : Byte) (c : Bytes) (s : State) :
    writeBuf n c s =
      if n ∈ ([0x10, 0x11, 0x12, 0x13, 0x14, 0x15, 0x18] : List Byte) ∧ s.params.bufCap < c.length then
        .refused (.writeOverCapacity n)
      else .next (replaceBuf n c s) := by
  obtain ⟨hb, hc, he⟩ | ⟨hc, he⟩ := writeBuf_cases n c s
  · rw [he, if_pos ⟨(isBuffer_iff n).mp hb, hc⟩]
  · rw [he, if_neg fun ⟨hb, hlt⟩ => Nat.not_lt.mpr (hc ((isBuffer_iff n).mpr hb)) hlt]

/-- A register write past FRAME_ID is ignored (R21, R35). -/
theorem writeReg_ignored {n v : Byte} {s : State} (h : ¬n.toNat ≤ 0x02) : writeReg n v s = s := by
  unfold writeReg
  split
  case h_4 => rfl
  all_goals omega

/-- A buffer write to a number that is no request buffer's is ignored when it is not refused (R21, R35). -/
theorem replaceBuf_ignored {n : Byte} {c : Bytes} {s : State} (h : ¬(0x10 ≤ n.toNat ∧ n.toNat ≤ 0x15)) :
    replaceBuf n c s = s := by
  unfold replaceBuf
  split
  case h_7 => rfl
  all_goals omega

/-- A step whose access is a register write to a number other than ISSUE's (R60). -/
theorem step_writeReg {s : State} {n v : Byte} {rest : List Access} (h : s.host.pending = .writeReg n v :: rest)
    (hn : n ≠ 0x03) : step s = .next (writeReg n v (setPending rest s)) := by
  rw [step_access h]
  exact if_neg hn

/-- Settles O45: the step is the register write of R21's map. -/
theorem writeRegMap : Obligations.WriteRegMap := by
  unfold Obligations.WriteRegMap
  intro s n v rest h hn
  rw [step_writeReg h hn, writeReg_eq]
  rfl

/-- Settles O46: the step notes the value R21's map gives. -/
theorem readRegMap : Obligations.ReadRegMap := by
  unfold Obligations.ReadRegMap
  intro s n rest h
  rw [step_access h, performAccess, readReg_eq]
  rfl

/-- Settles O47: the step is the buffer write of R21's map, with the refusal of R55. -/
theorem writeBufMap : Obligations.WriteBufMap := by
  unfold Obligations.WriteBufMap
  intro s n c rest h
  rw [step_access h, performAccess, writeBuf_eq, replaceBuf_eq]
  rfl

/-- Settles O48: the step notes the content R21's map gives. -/
theorem readBufMap : Obligations.ReadBufMap := by
  unfold Obligations.ReadBufMap
  intro s n rest h
  rw [step_access h, performAccess, readBuf_eq]
  rfl

/-- An access that changes the results is a write to ISSUE or a reset (R35). -/
theorem performAccess_changes_res {a : Access} {s t : State} (h : performAccess a s = .next t) (hres : t.res ≠ s.res) :
    a = .reset ∨ ∃ v, a = .writeReg 0x03 v := by
  obtain ⟨v, u, rfl, _, _⟩ | ⟨n, v, _, _, rfl⟩ | ⟨n, _, rfl⟩ | ⟨n, c, _, _, rfl⟩ | ⟨n, _, rfl⟩ | ⟨rfl, _⟩ :=
    performAccess_next h
  · exact .inr ⟨v, rfl⟩
  · exact absurd (writeReg_res n v s) hres
  · exact absurd (observe_res _ s) hres
  · exact absurd (replaceBuf_res n c s) hres
  · exact absurd (observe_res _ s) hres
  · exact .inl rfl

/-- An access that changes the request is a write to a request register or buffer or a reset (R35). -/
theorem performAccess_changes_req {a : Access} {s t : State} (h : performAccess a s = .next t) (hreq : t.req ≠ s.req) :
    a = .reset ∨ (∃ n v, a = .writeReg n v ∧ n.toNat ≤ 0x02) ∨
      ∃ n c, a = .writeBuf n c ∧ 0x10 ≤ n.toNat ∧ n.toNat ≤ 0x15 := by
  obtain ⟨v, u, _, hu, rfl⟩ | ⟨n, v, rfl, _, rfl⟩ | ⟨n, _, rfl⟩ | ⟨n, c, rfl, _, rfl⟩ | ⟨n, _, rfl⟩ | ⟨rfl, _⟩ :=
    performAccess_next h
  · exact absurd (issue_keeps_req hu) hreq
  · exact .inr (.inl ⟨n, v, rfl, Decidable.by_contra fun hn => hreq (congrArg State.req (writeReg_ignored hn))⟩)
  · exact absurd (observe_req _ s) hreq
  · exact .inr (.inr ⟨n, c, rfl, Decidable.by_contra fun hn => hreq (congrArg State.req (replaceBuf_ignored hn))⟩)
  · exact absurd (observe_req _ s) hreq
  · exact .inl rfl

/-- Settles O51: the step's access is the one that changes the results or the request. -/
theorem whoWritesRequestAndResults : Obligations.WhoWritesRequestAndResults := by
  unfold Obligations.WhoWritesRequestAndResults
  intro s t a rest h hstep
  rw [step_access h] at hstep
  exact ⟨fun hres => performAccess_changes_res hstep hres, fun hreq => performAccess_changes_req hstep hreq⟩

end Sys2Proof.Machine

namespace Sys2Proof.Machine

/-! Reset, and the instruction a write to ISSUE runs. -/

/-- Settles O1: the reset values are R40's as they stand. -/
theorem resetGivesSpecValues : Obligations.ResetGivesSpecValues := by
  unfold Obligations.ResetGivesSpecValues
  exact fun _ => ⟨rfl, rfl, rfl⟩

/-- Settles O2: the reset values of R40 meet the invariant, whatever the parameters are. -/
theorem resetMeetsStateInvariant : Obligations.ResetMeetsStateInvariant := by
  unfold Obligations.ResetMeetsStateInvariant
  exact ⟨fun _ => codecInv_of_reset rfl rfl, codecInv_of_reset rfl rfl⟩

/-- One byte decodes as an op code (R70). -/
theorem decode_singleton (code : Byte) : decode [code] = decodeOp code := rfl

/-- Settles O5: the issue of the step is the instruction's meaning. -/
theorem stepRunsDecodedInstruction : Obligations.StepRunsDecodedInstruction := by
  unfold Obligations.StepRunsDecodedInstruction
  intro s v rest i h hdecode _
  rw [decode_singleton] at hdecode
  rw [step_issue h, issue_ok (s := setPending rest s) hdecode]
  rfl

end Sys2Proof.Machine

namespace Sys2Proof.Machine

/-! Which issues are refused (R55): those whose pseudocode comes to results over capacity, read off instruction by instruction. -/

open Sys2Proof.Safety

/-- What the pseudocode came to is results that do not fit (R55). -/
def Overflows (p : Params) (r : Except Failure Written) : Prop := ∃ w, r = .ok w ∧ fits p w = false

@[simp] theorem not_overflows_error (p : Params) (f : Failure) : ¬Overflows p (.error f) := fun ⟨_, h, _⟩ => nomatch h

theorem overflows_ok_iff (p : Params) (w : Written) : Overflows p (.ok w) ↔ fits p w = false :=
  ⟨fun ⟨_, hw, h⟩ => Except.ok.inj hw ▸ h, fun h => ⟨w, rfl, h⟩⟩

@[simp] theorem overflows_out_iff (p : Params) (o : Bytes) : Overflows p (.ok { out := o }) ↔ p.bufCap < o.length := by
  rw [overflows_ok_iff, fits_out, decide_eq_false_iff_not, Nat.not_le]

@[simp] theorem overflows_results_iff (p : Params) (l : List DecodeResult) :
    Overflows p (.ok { results := l }) ↔ p.bufCap < l.length := by
  rw [overflows_ok_iff, fits_results, decide_eq_false_iff_not, Nat.not_le]

/-- An instruction whose results overflow is refused (R55). -/
theorem exec_of_overflows {i : Instr} {s : State} (h : Overflows s.params (outcomeOf i s.params s.req)) :
    exec i s = .refused .resultOverCapacity := by
  obtain ⟨_, hw, hfits⟩ := h
  exact exec_of_overCapacity hw hfits

/-- Any other instruction answers a next state. -/
theorem exec_of_not_overflows {i : Instr} {s : State} (h : ¬Overflows s.params (outcomeOf i s.params s.req)) :
    ∃ t, exec i s = .next t := by
  obtain ⟨_, _, he⟩ | ⟨_, _, _, he⟩ | ⟨w, hw, hfits, _⟩ := exec_cases i s
  · exact ⟨_, he⟩
  · exact ⟨_, he⟩
  · exact absurd ⟨w, hw, hfits⟩ h

/-- `Finalize` answers a frame four bytes longer than its data (R120). -/
theorem overflows_finalize_iff (p : Params) (data : Bytes) :
    Overflows p (finalize data) ↔ data.length ≤ 0xFFFF ∧ p.bufCap < data.length + 4 := by
  obtain ⟨hl, hf⟩ | ⟨hl, hf⟩ := finalize_cases data <;> rw [hf]
  · simp [Nat.not_le.mpr hl]
  · simp [wireFrame_length, hl]

/-- The 64-bit address is 8 bytes long: the default, or an ARG_ADDR64 of that width (R121, R124). -/
theorem addr64Operand_width (q : Request) :
    ((q.argctl.getLsbD 1 = true ∨ q.argAddr64.length = 8) ∧ ∃ a, addr64Operand q = .ok a ∧ a.length = 8) ∨
      (¬(q.argctl.getLsbD 1 = true ∨ q.argAddr64.length = 8) ∧ ∃ f, addr64Operand q = .error f) := by
  obtain ⟨hd, h⟩ | ⟨_, hl, h⟩ | ⟨hd, hl, h⟩ := addr64Operand_cases q
  · exact .inl ⟨.inl hd, _, h, rfl⟩
  · exact .inl ⟨.inr hl, _, h, hl⟩
  · exact .inr ⟨not_or.mpr ⟨Bool.eq_false_iff.mp hd, hl⟩, _, h⟩

/-- The options operand is one byte long: the default, or an ARG_OPTIONS of that width (R121, R124). -/
theorem optionsOperand_width (q : Request) :
    ((q.argctl.getLsbD 2 = true ∨ q.argOptions.length = 1) ∧ ∃ o, optionsOperand q = .ok o ∧ o.length = 1) ∨
      (¬(q.argctl.getLsbD 2 = true ∨ q.argOptions.length = 1) ∧ ∃ f, optionsOperand q = .error f) := by
  obtain ⟨hd, h⟩ | ⟨_, hl, h⟩ | ⟨hd, hl, h⟩ := optionsOperand_cases q
  · exact .inl ⟨.inl hd, _, h, rfl⟩
  · exact .inl ⟨.inr hl, _, h, hl⟩
  · exact .inr ⟨not_or.mpr ⟨Bool.eq_false_iff.mp hd, hl⟩, _, h⟩

/-- The frame of a Local AT Command is 8 bytes longer than its value (R78, R123). -/
theorem overflows_buildLocalAt_iff (p : Params) (q : Request) :
    Overflows p (buildLocalAt q) ↔
      q.argCmd.length = 2 ∧ 4 + q.argValue.length ≤ 0xFFFF ∧ p.bufCap < 8 + q.argValue.length := by
  unfold buildLocalAt
  obtain ⟨hcmd, hc⟩ | ⟨hcmd, hc⟩ := commandOperand_cases q <;> simp only [hc]
  · simp only [overflows_finalize_iff, localAtData, List.length_append, List.length_cons, List.length_nil, hcmd, true_and]
    omega
  · exact iff_of_false (not_overflows_error p _) fun ⟨h, _⟩ => hcmd h

/-- The frame of a Remote AT Command is 19 bytes longer than its value (R79, R125). -/
theorem overflows_buildRemoteAt_iff (p : Params) (q : Request) :
    Overflows p (buildRemoteAt q) ↔
      q.argCmd.length = 2 ∧ q.argAddr16.length = 2 ∧ (q.argctl.getLsbD 1 = true ∨ q.argAddr64.length = 8) ∧
        (q.argctl.getLsbD 2 = true ∨ q.argOptions.length = 1) ∧ 15 + q.argValue.length ≤ 0xFFFF ∧
        p.bufCap < 19 + q.argValue.length := by
  unfold buildRemoteAt
  obtain ⟨hcmd, hc⟩ | ⟨hcmd, hc⟩ := commandOperand_cases q <;> simp only [hc]
  case inr => exact iff_of_false (not_overflows_error p _) fun ⟨h, _⟩ => hcmd h
  obtain ⟨h16, ha⟩ | ⟨h16, ha⟩ := addr16Operand_cases q <;> simp only [ha]
  case inr => exact iff_of_false (not_overflows_error p _) fun ⟨_, h, _⟩ => h16 h
  obtain ⟨hw64, a64, hb, h64⟩ | ⟨hw64, _, hb⟩ := addr64Operand_width q <;> simp only [hb]
  case inr => exact iff_of_false (not_overflows_error p _) fun ⟨_, _, h, _⟩ => hw64 h
  obtain ⟨hwopt, opt, ho, hopt⟩ | ⟨hwopt, _, ho⟩ := optionsOperand_width q <;> simp only [ho]
  case inr => exact iff_of_false (not_overflows_error p _) fun ⟨_, _, _, h, _⟩ => hwopt h
  simp only [overflows_finalize_iff, remoteAtData, List.length_append, List.length_cons, List.length_nil, hcmd, h16, h64,
    hopt, hw64, hwopt, true_and]
  omega

/-- LENGTH_FIELD answers two bytes, for an IN that the length field counts (R103). -/
theorem overflows_lengthField_iff (p : Params) (q : Request) :
    Overflows p (outcomeOf .lengthField p q) ↔ q.input.length ≤ 0xFFFF ∧ p.bufCap < 2 := by
  by_cases h : q.input.length > Config.maxLen
  · have hn : ¬q.input.length ≤ 0xFFFF := Nat.not_le.mpr h
    simp [outcomeOf, lengthFieldOf, h, hn]
  · have hl : q.input.length ≤ 0xFFFF := Nat.not_lt.mp h
    simp [outcomeOf, lengthFieldOf, h, hl, lengthBytes_length]

/-- HEX_TO_BYTES answers half as many bytes as IN has (R105). -/
theorem not_overflows_hexToBytes {p : Params} {q : Request} (hin : q.input.length ≤ p.bufCap) :
    ¬Overflows p (outcomeOf .hexToBytes p q) := by
  cases h : hexToBytes q.input with
  | none => simp [outcomeOf, h]
  | some b =>
    have := hexToBytes_length h
    simp only [outcomeOf, h, overflows_out_iff]
    omega

/-- SPLIT answers no more candidates than IN has bytes (R140). -/
theorem not_overflows_split {p : Params} {q : Request} (hin : q.input.length ≤ p.bufCap) :
    ¬Overflows p (outcomeOf .split p q) := by
  have hle := (splitFrames_length_le q.input).trans hin
  simp [outcomeOf, overflows_ok_iff, fits_iff, hle]

/-- DECODE_STREAM answers one result for each candidate (R169). -/
theorem not_overflows_decodeStream {p : Params} {q : Request} (hin : q.input.length ≤ p.bufCap) :
    ¬Overflows p (outcomeOf .decodeStream p q) := by
  have hle := (splitFrames_length_le q.input).trans hin
  simp [outcomeOf, overflows_ok_iff, fits_iff, hle]

/-- VALIDATE answers a base record alone, which R55 does not bound. -/
theorem not_overflows_validate (p : Params) (q : Request) : ¬Overflows p (outcomeOf .validate p q) := by
  cases h : validateCandidate q.input <;> simp [outcomeOf, h, overflows_ok_iff, fits_base]

/-- PARSE answers one Response, of a candidate that is not empty (R151, R168). -/
theorem not_overflows_parse {p : Params} {q : Request} (hin : q.input.length ≤ p.bufCap) :
    ¬Overflows p (outcomeOf .parse p q) := by
  cases h : parseCandidate p.respLayout q.input with
  | error f => simp [outcomeOf, h]
  | ok r =>
    obtain ⟨b, hv, _⟩ := (parseCandidate_ok_iff _ _ r).mp h
    obtain ⟨api, body, _, hc, _⟩ := (validateCandidate_ok_iff _ b).mp hv
    rw [hc, candidateOf_length] at hin
    simp only [outcomeOf, h, overflows_results_iff, List.length_singleton]
    omega

/-- A received command frame answers no results (R160). -/
theorem not_overflows_receivedError (p : Params) (api : Byte) (body : Bytes) (f : Failure) :
    ¬Overflows p (receivedOutcome api body fun _ _ => .error f) := by
  intro ⟨w, hw, _⟩
  obtain ⟨_, _, _, hd, _⟩ := receivedOutcome_ok hw
  cases hd

/-- A received response frame answers one Response when its frame data fits the length field, else an error (R153; log entry
16). -/
theorem overflows_receivedOk_iff (p : Params) (api : Byte) (body : Bytes) (d : Bytes → BaseRecord → Response) :
    Overflows p (receivedOutcome api body fun c b => .ok (d c b)) ↔ body.length + 1 ≤ 0xFFFF ∧ p.bufCap < 1 := by
  by_cases hl : body.length + 1 ≤ 0xFFFF
  · simp [receivedOutcome, validateCandidate_candidateOf hl, hl]
  · refine iff_of_false (fun ⟨w, hw, _⟩ => hl ?_) fun h => hl h.1
    obtain ⟨b, _, hv, _⟩ := receivedOutcome_ok hw
    obtain ⟨api', body', hl', hc, _⟩ := (validateCandidate_ok_iff _ b).mp hv
    rwa [(List.cons.inj (candidateOf_inj hc)).2]

/-- The condition under which the results of an instruction overflow when IN is within capacity (R55, R8). -/
def Overfull (p : Params) (q : Request) : Instr → Prop
  | .checksum => p.bufCap < 1
  | .lengthField => q.input.length ≤ 0xFFFF ∧ p.bufCap < 2
  | .bytesToHex => p.bufCap < 2 * q.input.length
  | .encLocalAt => q.argCmd.length = 2 ∧ 4 + q.argValue.length ≤ 0xFFFF ∧ p.bufCap < 8 + q.argValue.length
  | .encRemoteAt =>
    q.argCmd.length = 2 ∧ q.argAddr16.length = 2 ∧ (q.argctl.getLsbD 1 = true ∨ q.argAddr64.length = 8) ∧
      (q.argctl.getLsbD 2 = true ∨ q.argOptions.length = 1) ∧ 15 + q.argValue.length ≤ 0xFFFF ∧
      p.bufCap < 19 + q.argValue.length
  | .frameLocalAtResponse body | .frameRemoteAtResponse body => body.length + 1 ≤ 0xFFFF ∧ p.bufCap < 1
  | .hexToBytes | .encQueuedAt | .encTx | .encExplicitTx | .split | .validate | .parse | .decodeStream
  | .frameLocalAtCommand _ | .frameRemoteAtCommand _ => False

/-- With IN within capacity, an instruction's results overflow exactly under its own condition. -/
theorem overflows_outcomeOf_iff {p : Params} {q : Request} (i : Instr) (hin : q.input.length ≤ p.bufCap) :
    Overflows p (outcomeOf i p q) ↔ Overfull p q i := by
  cases i
  case checksum => exact overflows_out_iff p _
  case lengthField => exact overflows_lengthField_iff p q
  case bytesToHex => rw [outcomeOf, overflows_out_iff, bytesToHex_length, Overfull]
  case encLocalAt => exact overflows_buildLocalAt_iff p q
  case encRemoteAt => exact overflows_buildRemoteAt_iff p q
  case frameLocalAtResponse body | frameRemoteAtResponse body => exact overflows_receivedOk_iff p _ body _
  case hexToBytes => exact iff_false_intro (not_overflows_hexToBytes hin)
  case encQueuedAt | encTx | encExplicitTx => exact iff_false_intro (not_overflows_error p _)
  case split => exact iff_false_intro (not_overflows_split hin)
  case validate => exact iff_false_intro (not_overflows_validate p q)
  case parse => exact iff_false_intro (not_overflows_parse hin)
  case decodeStream => exact iff_false_intro (not_overflows_decodeStream hin)
  case frameLocalAtCommand body | frameRemoteAtCommand body =>
    exact iff_false_intro (not_overflows_receivedError p _ body _)

/-- With the buffers within capacity, an overfull instruction is refused and any other answers a next state (R55). -/
theorem exec_refused_or_next (i : Instr) {s : State} (h : WithinCapacity s) :
    (Overfull s.params s.req i ∧ exec i s = .refused .resultOverCapacity) ∨
      (¬Overfull s.params s.req i ∧ ∃ t, exec i s = .next t) := by
  obtain ⟨_, _, _, _, _, hin, _⟩ := h
  rw [← overflows_outcomeOf_iff i hin]
  by_cases ho : Overflows s.params (outcomeOf i s.params s.req)
  · exact .inl ⟨ho, exec_of_overflows ho⟩
  · exact .inr ⟨ho, exec_of_not_overflows ho⟩

/-- With the recommended capacity only BYTES_TO_HEX can be overfull (R8, R108). -/
theorem eq_bytesToHex_of_overfull {p : Params} {q : Request} {i : Instr} (hcap : 0x10003 ≤ p.bufCap)
    (h : Overfull p q i) : i = .bytesToHex ∧ p.bufCap < 2 * q.input.length := by
  cases i
  case bytesToHex => exact ⟨rfl, h⟩
  all_goals simp only [Overfull] at h <;> omega

/-- Settles O43: the listed conditions are the instructions' own. -/
theorem refusedIssuesAreTheOverfull : Obligations.RefusedIssuesAreTheOverfull := by
  unfold Obligations.RefusedIssuesAreTheOverfull
  intro i s h cap overfull
  have hiff : overfull ↔ Overfull s.params s.req i := by
    cases i <;> simp [overfull, cap, Overfull]
  rw [hiff]
  obtain ⟨ho, he⟩ | ⟨ho, he⟩ := exec_refused_or_next i h
  · exact ⟨fun _ => he, fun hn => absurd ho hn⟩
  · exact ⟨fun hy => absurd hy ho, fun _ => he⟩

/-- Settles O44: a refused instruction is overfull, and no other than BYTES_TO_HEX can be. -/
theorem onlyHexTextOverflows : Obligations.OnlyHexTextOverflows := by
  unfold Obligations.OnlyHexTextOverflows
  intro i s hcap h
  obtain ⟨ho, he⟩ | ⟨_, he⟩ := exec_refused_or_next i h
  · obtain ⟨hi, hlen⟩ := eq_bytesToHex_of_overfull hcap ho
    exact .inr ⟨hi, hlen, he⟩
  · exact .inl he

end Sys2Proof.Machine

namespace Sys2Proof.Machine

/-! An issue repeated: it reads the request and the parameters only, and leaves both as they were (R39, R56). -/

theorem issue_keeps_host {s t : State} (h : issue s = .next t) : t.host = s.host := by
  obtain ⟨i, _, hi⟩ | rfl := issue_next h
  · exact exec_keeps_host hi
  · exact raised_host _ _ s

/-- Issues of the same request under the same parameters write the same results, an illegal op code included (R39,
R205). -/
theorem issue_res_of_req_eq {s₁ s₂ t₁ : State} (hreq : s₁.req = s₂.req) (hparams : s₁.params = s₂.params)
    (h : issue s₁ = .next t₁) : ∃ t₂, issue s₂ = .next t₂ ∧ t₂.res = t₁.res := by
  cases hop : decodeOp s₁.req.op with
  | ok i =>
    rw [issue_ok hop] at h
    rw [hreq] at hop
    rw [issue_ok hop]
    exact (resultsDependOnRequestOnly i s₁ s₂ hreq hparams).1 t₁ h
  | error r =>
    rw [issue_illegal hop] at h
    rw [hreq] at hop
    refine ⟨_, issue_illegal hop, ?_⟩
    rw [← Host.Outcome.next.inj h, ← hreq]
    rfl

/-- An issue of the request another issue left writes the same results and leaves the same request. -/
theorem issue_again {s t s' : State} (h : issue s = .next t) (hreq : s'.req = t.req) (hparams : s'.params = t.params) :
    ∃ u, issue s' = .next u ∧ u.req = s.req ∧ u.res = t.res := by
  have hreq' : s'.req = s.req := hreq.trans (issue_keeps_req h)
  have hparams' : s'.params = s.params := hparams.trans (issue_keeps_params h)
  obtain ⟨u, hu, hres⟩ := issue_res_of_req_eq hreq'.symm hparams'.symm h
  exact ⟨u, hu, (issue_keeps_req hu).trans hreq', hres⟩

/-- A step whose access is a write to ISSUE and that completes: it leaves what the issue left, with its results observed. -/
theorem step_issue_next {s t : State} {v : Byte} {rest : List Access} (hp : s.host.pending = .writeReg 0x03 v :: rest)
    (h : step s = .next t) : ∃ u, issue (setPending rest s) = .next u ∧ t = observe (.issued u.res) u :=
  observeIssue_next (step_issue hp ▸ h)

/-- Settles O50: the first issue leaves the request, the parameters and the second access as they were, and the second issue runs
the same request. -/
theorem repeatedIssueRepeatsResults : Obligations.RepeatedIssueRepeatsResults := by
  unfold Obligations.RepeatedIssueRepeatsResults
  intro s t v w rest hp hstep
  obtain ⟨t₁, hissue, rfl⟩ := step_issue_next hp hstep
  have hpending : (observe (.issued t₁.res) t₁).host.pending = .writeReg 0x03 w :: rest :=
    congrArg HostPort.pending (issue_keeps_host hissue)
  obtain ⟨u, hu, hreq, hres⟩ := issue_again (s' := setPending rest (observe (.issued t₁.res) t₁)) hissue rfl rfl
  refine ⟨observe (.issued u.res) u, ?_, hreq, hres⟩
  rw [step_issue hpending, hu]
  rfl

end Sys2Proof.Machine

namespace Sys2Proof.Machine

/-! Decoder and encoder (R70, R72, R75, R77). An instruction's encoding is one op code or the wire frame of some frame data, and the
decoder reads each back by its own map. -/

/-- The encoding of an instruction is an op code that the op code map reads back, or the wire frame of frame data that the
frame-type map reads back; it is well formed when that frame data fits the length field (R72, R75, R77). -/
theorem encode_cases (i : Instr) :
    (∃ code, encode i = [code] ∧ decodeOp code = .ok i ∧ i.wellFormed = true) ∨
      ∃ (api : Byte) (body : Bytes), encode i = wireFrame (api :: body) ∧ decodeFrameData (api :: body) = .ok i ∧
        i.wellFormed = frameDataFits body := by
  cases i
  case frameLocalAtCommand body | frameRemoteAtCommand body | frameLocalAtResponse body | frameRemoteAtResponse body =>
    exact .inr ⟨_, body, rfl, rfl, rfl⟩
  all_goals exact .inl ⟨_, rfl, rfl, rfl⟩

/-- Frame data fits when the length field counts it (R75). -/
theorem frameDataFits_iff (body : Bytes) : frameDataFits body = true ↔ body.length + 1 ≤ 0xFFFF := decide_eq_true_iff

/-- The decoder's checks of a candidate are the validator's (R151, R153, R154), and the frame-type map is then applied to the frame
data. -/
theorem decodeCandidate_ok_iff (c : Bytes) (i : Instr) :
    decodeCandidate c = .ok i ↔ ∃ b, validateCandidate c = .ok b ∧ decodeFrameData b.frameData = .ok i := by
  unfold decodeCandidate validateCandidate
  split_ifs <;> simp

/-- A candidate decodes exactly when it is that of some frame data that fits the length field and is of a listed type (R77,
R82). -/
theorem decodeCandidate_ok_iff_candidateOf (c : Bytes) (i : Instr) :
    decodeCandidate c = .ok i ↔
      ∃ (api : Byte) (body : Bytes), body.length + 1 ≤ 0xFFFF ∧ c = candidateOf (api :: body) ∧
        decodeFrameData (api :: body) = .ok i := by
  rw [decodeCandidate_ok_iff]
  constructor
  · rintro ⟨b, hv, hd⟩
    obtain ⟨api, body, hl, hc, rfl⟩ := (validateCandidate_ok_iff c b).mp hv
    exact ⟨api, body, hl, hc, hd⟩
  · rintro ⟨api, body, hl, rfl, hd⟩
    exact ⟨_, validateCandidate_candidateOf hl, hd⟩

/-- After the start byte the decoder reads a candidate (R75). -/
theorem decode_startByte {c : Bytes} (h : c ≠ []) : decode (Config.startByte :: c) = decodeCandidate c := by
  obtain ⟨b, rest, rfl⟩ := List.exists_cons_of_ne_nil h
  rfl

/-- The wire frame of frame data that fits the length field decodes by the frame-type map (R75, R77). -/
theorem decode_wireFrame {api : Byte} {body : Bytes} {i : Instr} (hl : body.length + 1 ≤ 0xFFFF)
    (hd : decodeFrameData (api :: body) = .ok i) : decode (wireFrame (api :: body)) = .ok i := by
  rw [wireFrame, decode_startByte (c := candidateOf _) (List.cons_ne_nil _ _)]
  exact (decodeCandidate_ok_iff_candidateOf _ i).mpr ⟨api, body, hl, rfl, hd⟩

/-- Settles O7: an op code decodes by the op code map and a wire frame by the frame-type map. -/
theorem decodeEncodeRoundTrip : Obligations.DecodeEncodeRoundTrip := by
  unfold Obligations.DecodeEncodeRoundTrip
  intro i hwf
  obtain ⟨code, he, hd, _⟩ | ⟨api, body, he, hd, hfits⟩ := encode_cases i
  · rw [he, decode_singleton, hd]
  · rw [he]
    exact decode_wireFrame ((frameDataFits_iff body).mp (hfits ▸ hwf)) hd

/-- Everything the decoder accepts: a legal op code, or the wire frame of frame data that fits the length field and is of a listed
type (R72, R75, R77). -/
theorem decode_ok_cases {w : Bytes} {i : Instr} (h : decode w = .ok i) :
    (∃ code, w = [code] ∧ decodeOp code = .ok i) ∨
      ∃ (api : Byte) (body : Bytes), body.length + 1 ≤ 0xFFFF ∧ w = wireFrame (api :: body) ∧
        decodeFrameData (api :: body) = .ok i := by
  match w with
  | [] => cases h
  | [code] => exact .inl ⟨code, rfl, h⟩
  | first :: b :: rest =>
    by_cases hs : first = Config.startByte
    · rw [hs, decode_startByte (List.cons_ne_nil b rest), decodeCandidate_ok_iff_candidateOf] at h
      obtain ⟨api, body, hl, hc, hd⟩ := h
      exact .inr ⟨api, body, hl, by rw [hs, hc, wireFrame], hd⟩
    · rw [decode, if_neg hs] at h
      · cases h
      · simp

/-- An op code that decodes is the encoding of what it decodes to (R72). -/
theorem encode_of_decodeOp {code : Byte} {i : Instr} (h : decodeOp code = .ok i) :
    encode i = [code] ∧ i.wellFormed = true := by
  unfold decodeOp at h
  split at h <;> cases h
  all_goals
    rename_i hcode
    exact ⟨congrArg (fun b => [b]) (BitVec.eq_of_toNat_eq hcode.symm), rfl⟩

/-- Frame data of a listed type is that of the frame it decodes to (R77). -/
theorem encode_of_decodeFrameData {api : Byte} {body : Bytes} {i : Instr} (h : decodeFrameData (api :: body) = .ok i) :
    encode i = wireFrame (api :: body) ∧ i.wellFormed = frameDataFits body := by
  simp only [decodeFrameData] at h
  split_ifs at h with h1 h2 h3 h4
  all_goals
    cases h
    subst api
    exact ⟨rfl, rfl⟩

/-- Settles O8: both maps give each instruction one op code or one api_id, and the frame around the frame data is the one R75
prescribes. -/
theorem decodedBytesAreTheEncoding : Obligations.DecodedBytesAreTheEncoding := by
  unfold Obligations.DecodedBytesAreTheEncoding
  intro w i h
  obtain ⟨code, rfl, hd⟩ | ⟨api, body, hl, rfl, hd⟩ := decode_ok_cases h
  · exact encode_of_decodeOp hd
  · obtain ⟨he, hfits⟩ := encode_of_decodeFrameData hd
    exact ⟨he, hfits.trans ((frameDataFits_iff body).mpr hl)⟩

/-- Settles O9: each listed number has its branch in the op code map, and the last branch, all others', rejects. -/
theorem legalOpCodesAreTheListed : Obligations.LegalOpCodesAreTheListed := by
  unfold Obligations.LegalOpCodesAreTheListed
  intro code
  unfold decodeOp
  split
  case h_14 => simp_all
  all_goals simp [*]

/-- Settles O10: the words are short, and the decoder computes. -/
theorem sampleWordsDecode : Obligations.SampleWordsDecode := by
  unfold Obligations.SampleWordsDecode
  exact ⟨rfl, rfl, rfl, rfl, rfl, rfl, rfl, rfl, rfl⟩

/-- A line of ENC_LOCAL_AT expands to its buffer writes, its frame id and ARGCTL, its op code and the issue (R85). -/
theorem expandLine_encLocalAt (a : LineArgs) :
    expandLine { op := .encLocalAt, args := a } =
      bufAccesses a ++ builderAccesses a ++ [.writeReg 0x00 0x20, .writeReg 0x03 0x00] := by
  simp [expandLine, encode, issueNumber]

/-- Settles O55: the accesses of the operands each line names, then those of every line of ENC_LOCAL_AT. -/
theorem builderLineExpansion : Obligations.BuilderLineExpansion := by
  unfold Obligations.BuilderLineExpansion
  intro cmd value fid
  rw [lineBuildLocalAtCommand, lineEncodeLocalAt, expandLine_encLocalAt, expandLine_encLocalAt]
  simp [bufAccesses, bufAccess, builderAccesses, lineArgctl]

end Sys2Proof.Machine

namespace Sys2Proof.Machine

/-! What the builders write, as instructions: frames of the types R77 gives them. -/

open Sys2Proof.Safety

/-- A `Finalize` that succeeds answers the wire frame of data that fits the length field (R120). -/
theorem finalize_ok {data : Bytes} {w : Written} (h : finalize data = .ok w) :
    data.length ≤ 0xFFFF ∧ w = { out := wireFrame data } := by
  obtain ⟨_, hf⟩ | ⟨hl, hf⟩ := finalize_cases data
  · cases hf.symm.trans h
  · exact ⟨hl, (Except.ok.inj (hf.symm.trans h)).symm⟩

/-- A local build that succeeds answers a well-formed frame with api_id 0x08 (R78, R122). -/
theorem buildLocalAt_ok {q : Request} {w : Written} (h : buildLocalAt q = .ok w) :
    ∃ body, (Instr.frameLocalAtCommand body).wellFormed = true ∧ w = { out := encode (.frameLocalAtCommand body) } := by
  unfold buildLocalAt at h
  split at h
  · cases h
  · obtain ⟨hl, rfl⟩ := finalize_ok h
    exact ⟨_, (frameDataFits_iff _).mpr hl, rfl⟩

/-- A remote build that succeeds answers a well-formed frame with api_id 0x17 (R79, R124). -/
theorem buildRemoteAt_ok {q : Request} {w : Written} (h : buildRemoteAt q = .ok w) :
    ∃ body, (Instr.frameRemoteAtCommand body).wellFormed = true ∧ w = { out := encode (.frameRemoteAtCommand body) } := by
  unfold buildRemoteAt at h
  iterate 4
    split at h
    · cases h
  obtain ⟨hl, rfl⟩ := finalize_ok h
  exact ⟨_, (frameDataFits_iff _).mpr hl, rfl⟩

/-- An instruction that leaves no error number returned what its pseudocode wrote (R201, R202). -/
theorem exec_returned_of_err_eq_zero {i : Instr} {s t : State} (h : exec i s = .next t) (herr : t.res.err = 0x00) :
    ∃ w, outcomeOf i s.params s.req = .ok w ∧ t = returned w s := by
  obtain ⟨f, hf, rfl⟩ | ⟨w, hw, _, rfl⟩ := exec_next h
  · exact absurd (errorCode_eq_zero.mp herr) (outcomeOf_error_ne_none hf)
  · exact ⟨w, hw, rfl⟩

/-- Settles O22: OUT of a build is the encoding of a well-formed frame, so it decodes to that frame. -/
theorem buildersBuildTheirFrameTypes : Obligations.BuildersBuildTheirFrameTypes := by
  unfold Obligations.BuildersBuildTheirFrameTypes
  constructor <;> intro s t h herr <;> obtain ⟨w, hw, rfl⟩ := exec_returned_of_err_eq_zero h herr
  · obtain ⟨body, hwf, rfl⟩ := buildLocalAt_ok hw
    exact ⟨body, hwf, rfl, decodeEncodeRoundTrip _ hwf⟩
  · obtain ⟨body, hwf, rfl⟩ := buildRemoteAt_ok hw
    exact ⟨body, hwf, rfl, decodeEncodeRoundTrip _ hwf⟩

end Sys2Proof.Machine

namespace Sys2Proof.Machine

/-! What a received frame comes to: what its type says of a candidate that validates, which is what PARSE says of it (R77, R158;
log entry 4). -/

open Sys2Proof.Safety

/-- A received frame that fits the length field comes to the error of its type. -/
theorem receivedOutcome_of_error {api : Byte} {body : Bytes} {f : Failure} (hl : body.length + 1 ≤ 0xFFFF) :
    receivedOutcome api body (fun _ _ => .error f) = .error f := by
  simp only [receivedOutcome, validateCandidate_candidateOf hl]

/-- A received frame that fits the length field comes to the Response of its type. -/
theorem receivedOutcome_of_ok {api : Byte} {body : Bytes} (d : Bytes → BaseRecord → Response)
    (hl : body.length + 1 ≤ 0xFFFF) :
    receivedOutcome api body (fun c b => .ok (d c b)) =
      .ok { results := [.ok (d (candidate (api :: body)) (baseOf api body))] } := by
  simp only [receivedOutcome, validateCandidate_candidateOf hl, ← candidateOf_eq]

/-- Settles O36: the candidate validates and its type is not decoded. -/
theorem commandFramesAreNotDecoded : Obligations.CommandFramesAreNotDecoded := by
  unfold Obligations.CommandFramesAreNotDecoded
  exact fun body s hl =>
    ⟨exec_of_error (i := .frameLocalAtCommand body) (receivedOutcome_of_error hl),
      exec_of_error (i := .frameRemoteAtCommand body) (receivedOutcome_of_error hl)⟩

/-- Settles O37: the one Response fits exactly when RESULTS can hold an element. -/
theorem responseFramesAreDecoded : Obligations.ResponseFramesAreDecoded := by
  unfold Obligations.ResponseFramesAreDecoded
  intro body s hl
  have hlocal : outcomeOf (.frameLocalAtResponse body) s.params s.req = _ := receivedOutcome_of_ok _ hl
  have hremote : outcomeOf (.frameRemoteAtResponse body) s.params s.req = _ := receivedOutcome_of_ok _ hl
  constructor <;> intro hcap
  · have hfits (r : DecodeResult) : fits s.params { results := [r] } = true := by simp [fits_results, hcap]
    exact ⟨exec_of_ok hlocal (hfits _), exec_of_ok hremote (hfits _)⟩
  · have hover (r : DecodeResult) : fits s.params { results := [r] } = false := by simp [fits_results, hcap]
    exact ⟨exec_of_overCapacity hlocal (hover _), exec_of_overCapacity hremote (hover _)⟩

/-- PARSE with a frame's candidate in IN comes to what the dispatch on the api_id says of that frame (R158, R168). -/
theorem outcomeOf_parse_candidateOf {p : Params} {q : Request} {api : Byte} {body : Bytes}
    (hq : q.input = candidateOf (api :: body)) :
    outcomeOf .parse p q = receivedOutcome api body (parseBase p.respLayout) := by
  unfold outcomeOf parseCandidate receivedOutcome
  rw [hq]
  cases validateCandidate (candidateOf (api :: body)) <;> rfl

/-- What a received frame comes to depends on what is said of base records with its own api_id only (R155). -/
theorem receivedOutcome_congr {api : Byte} {body : Bytes} {d d' : Bytes → BaseRecord → Except Failure Response}
    (h : ∀ c b, b.apiId = api → d c b = d' c b) : receivedOutcome api body d = receivedOutcome api body d' := by
  unfold receivedOutcome
  cases hv : validateCandidate (candidateOf (api :: body)) with
  | error f => rfl
  | ok b => simp only [h _ b (validateCandidate_candidateOf_apiId hv)]

/-- What PARSE comes to on a received frame is what that frame comes to, type by type (R77, R158). -/
theorem outcomeOf_parse_of_encode {i : Instr} {p : Params} {q : Request} (h : encode i = 0x7E :: q.input) :
    outcomeOf .parse p q = outcomeOf i p q := by
  cases i
  case frameLocalAtCommand body | frameRemoteAtCommand body | frameLocalAtResponse body | frameRemoteAtResponse body =>
    rw [outcomeOf_parse_candidateOf (List.cons.inj h).2.symm, outcomeOf]
    refine receivedOutcome_congr fun c b hb => ?_
    simp [parseBase, hb, Config.apiLocalAtResp, Config.apiRemoteAtResp, Config.apiLocalAt, Config.apiRemoteAt]
  all_goals simp [encode] at h

/-- Settles O38: both issues conclude the same outcome. -/
theorem parseRunsReceivedFrame : Obligations.ParseRunsReceivedFrame := by
  unfold Obligations.ParseRunsReceivedFrame
  intro i s _ h
  rw [exec_eq_conclude, exec_eq_conclude, outcomeOf_parse_of_encode h]

end Sys2Proof.Machine

namespace Sys2Proof.Machine

/-! Instructions that write OUT alone: what they answer is whether OUT fits (R28, R55). CHECKSUM and LENGTH_FIELD are two of them,
and the checksum is a function of the byte sum modulo 256 (R100). -/

open Sys2Proof.Safety

/-- An instruction that answers an OUT within capacity. -/
theorem exec_of_out {i : Instr} {s : State} {o : Bytes} (h : outcomeOf i s.params s.req = .ok { out := o })
    (hfits : o.length ≤ s.params.bufCap) : exec i s = .next (returned { out := o } s) :=
  exec_of_ok h (by rw [fits_out, decide_eq_true hfits])

/-- An instruction that answers an OUT over capacity (R55). -/
theorem exec_of_out_overCapacity {i : Instr} {s : State} {o : Bytes}
    (h : outcomeOf i s.params s.req = .ok { out := o }) (hover : s.params.bufCap < o.length) :
    exec i s = .refused .resultOverCapacity :=
  exec_of_overflows (h ▸ (overflows_out_iff s.params o).mpr hover)

/-- Settles O11: OUT is one byte, so it fits exactly when OUT can hold a byte. -/
theorem checksumMeaning : Obligations.ChecksumMeaning := by
  unfold Obligations.ChecksumMeaning
  refine ⟨rfl, fun s => ?_⟩
  have hout : outcomeOf .checksum s.params s.req = .ok { out := [checksumByte s.req.input] } := by
    rw [outcomeOf, checksum_eq]
  exact ⟨exec_of_out hout, exec_of_out_overCapacity hout⟩

/-- LENGTH_FIELD of an IN that the length field counts (R102). -/
theorem outcomeOf_lengthField_of_le {p : Params} {q : Request} (h : q.input.length ≤ 0xFFFF) :
    outcomeOf .lengthField p q = .ok { out := lengthBytes q.input.length } := by
  have hmax : ¬q.input.length > Config.maxLen := Nat.not_lt.mpr h
  simp only [outcomeOf, lengthFieldOf, if_neg hmax]

/-- LENGTH_FIELD of an IN too long for the length field (R102). -/
theorem outcomeOf_lengthField_of_lt {p : Params} {q : Request} (h : 0xFFFF < q.input.length) :
    outcomeOf .lengthField p q = .error ⟨.payloadTooLarge, 0x00⟩ := by
  have hmax : q.input.length > Config.maxLen := h
  simp only [outcomeOf, lengthFieldOf, if_pos hmax]

/-- Settles O12: OUT is the two length bytes, or the length is too large for them. -/
theorem lengthFieldMeaning : Obligations.LengthFieldMeaning := by
  unfold Obligations.LengthFieldMeaning
  refine ⟨rfl, fun s => ⟨fun hlen => ?_, fun hlen => ?_, fun hlen => ?_⟩⟩
  · exact exec_of_out (outcomeOf_lengthField_of_le hlen)
  · exact exec_of_out_overCapacity (outcomeOf_lengthField_of_le hlen)
  · exact exec_of_error (outcomeOf_lengthField_of_lt hlen)

/-- Two checksums agree exactly when the byte sums agree modulo 256 (R100). -/
theorem checksum_eq_checksum_iff (p q : Bytes) : checksum p = checksum q ↔ byteSum p % 256 = byteSum q % 256 := by
  have hp := sum8_lt p
  have hq := sum8_lt q
  rw [← BitVec.toNat_inj, checksum_toNat, checksum_toNat]
  unfold sum8 at *
  omega

/-- The sum of a byte string, with one byte of it taken out. -/
theorem byteSum_append_cons (pre post : Bytes) (x : Byte) :
    byteSum (pre ++ x :: post) = x.toNat + byteSum (pre ++ post) := by
  simp only [byteSum_append, byteSum]
  omega

/-- `sum8` and the checksum are complements (R100). -/
theorem sum8_add_checksum (p : Bytes) : sum8 p + (checksum p).toNat = 0xFF := by
  have := sum8_lt p
  rw [checksum_toNat]
  omega

/-- A string followed by its checksum has checksum 0x00 (R109). -/
theorem checksum_append_checksum (p : Bytes) : checksum (p ++ [checksum p]) = 0x00 := by
  have hsum : sum8 (p ++ [checksum p]) = 0xFF := by
    have h := sum8_add_checksum p
    unfold sum8 at *
    rw [byteSum_append_cons, List.append_nil]
    omega
  apply BitVec.eq_of_toNat_eq
  rw [checksum_toNat, hsum]
  rfl

/-- Changing one byte changes the sum modulo 256, so the checksum (R109). -/
theorem checksum_ne_of_byte_ne {x y : Byte} (pre post : Bytes) (h : x ≠ y) :
    checksum (pre ++ x :: post) ≠ checksum (pre ++ y :: post) := by
  have hne : x.toNat ≠ y.toNat := fun he => h (BitVec.eq_of_toNat_eq he)
  have hx := x.isLt
  have hy := y.isLt
  rw [Ne, checksum_eq_checksum_iff, byteSum_append_cons, byteSum_append_cons]
  omega

/-- Two neighbours swapped leave the sum, so the checksum (R109). -/
theorem checksum_swap (pre post : Bytes) (x y : Byte) :
    checksum (pre ++ x :: y :: post) = checksum (pre ++ y :: x :: post) := by
  simp only [checksum_eq_checksum_iff, byteSum_append_cons, Nat.add_left_comm x.toNat]

/-- Settles O15: the four laws in turn. -/
theorem checksumLaws : Obligations.ChecksumLaws := by
  unfold Obligations.ChecksumLaws
  refine ⟨fun p => ?_, checksum_append_checksum, fun pre post x y => checksum_ne_of_byte_ne pre post, checksum_swap⟩
  rw [sum8_add_checksum]

end Sys2Proof.Machine

namespace Sys2Proof.Machine

/-! Hex conversion (R104, R106), pair of digits by pair of digits, and the two instructions that do it. -/

open Sys2Proof.Safety

/-- A text of at least two bytes is accepted when it begins with two digits and the rest is accepted (R104). -/
theorem hexToBytes_cons_cons_iff (hi lo : Byte) (rest out : Bytes) :
    hexToBytes (hi :: lo :: rest) = some out ↔
      ∃ h l s, hexVal hi = some h ∧ hexVal lo = some l ∧ hexToBytes rest = some s ∧
        out = BitVec.ofNat 8 (16 * h + l) :: s := by
  rw [hexToBytes]
  cases hexVal hi <;> cases hexVal lo <;> cases hexToBytes rest <;> simp [eq_comm]

/-- Two digit values make a byte, none of which is lost. -/
theorem toNat_ofNat_digits {hi lo : Byte} {h l : Nat} (hh : hexVal hi = some h) (hl : hexVal lo = some l) :
    (BitVec.ofNat 8 (16 * h + l)).toNat = 16 * h + l := by
  have := hexVal_lt hh
  have := hexVal_lt hl
  rw [BitVec.toNat_ofNat]
  omega

/-- The accepted texts are those of an even number of digits (R104). -/
theorem exists_hexToBytes_iff :
    ∀ t : Bytes, (∃ out, hexToBytes t = some out) ↔ t.length % 2 = 0 ∧ ∀ c ∈ t, ∃ d, IsDigit c d
  | [] => by simp [hexToBytes]
  | [_] => by simp [hexToBytes]
  | hi :: lo :: rest => by
    have ih := exists_hexToBytes_iff rest
    have hlen : (hi :: lo :: rest).length % 2 = rest.length % 2 := Nat.add_mod_right rest.length 2
    simp only [hlen, List.forall_mem_cons, ← hexVal_iff] at ih ⊢
    constructor
    · rintro ⟨_, hout⟩
      obtain ⟨h, l, s, hh, hl, hs, _⟩ := (hexToBytes_cons_cons_iff hi lo rest _).mp hout
      obtain ⟨heven, hrest⟩ := ih.mp ⟨s, hs⟩
      exact ⟨heven, ⟨h, hh⟩, ⟨l, hl⟩, hrest⟩
    · rintro ⟨heven, ⟨h, hh⟩, ⟨l, hl⟩, hrest⟩
      obtain ⟨s, hs⟩ := ih.mpr ⟨heven, hrest⟩
      exact ⟨_, (hexToBytes_cons_cons_iff hi lo rest _).mpr ⟨h, l, s, hh, hl, hs, rfl⟩⟩

/-- Byte `k` of what a text spells is of the digits `2k` and `2k + 1` (R104). -/
theorem toNat_getElem?_hexToBytes : ∀ {t out : Bytes} {k h l : Nat} {b hi lo : Byte}, hexToBytes t = some out →
    out[k]? = some b → t[2 * k]? = some hi → t[2 * k + 1]? = some lo → IsDigit hi h → IsDigit lo l →
      b.toNat = 16 * h + l
  | [], _, _, _, _, _, _, _, _, _, hhi, _, _, _ => by simp at hhi
  | [_], _, _, _, _, _, _, _, ht, _, _, _, _, _ => by cases ht
  | c :: d :: rest, out, k, h, l, b, hi, lo, ht, hb, hhi, hlo, hh, hl => by
    obtain ⟨h', l', s, hc, hd, hs, rfl⟩ := (hexToBytes_cons_cons_iff c d rest out).mp ht
    cases k with
    | zero =>
      obtain rfl : c = hi := Option.some.inj hhi
      obtain rfl : d = lo := Option.some.inj hlo
      obtain rfl : _ = b := Option.some.inj hb
      rw [← hexVal_iff] at hh hl
      rw [toNat_ofNat_digits hc hd, Option.some.inj (hc.symm.trans hh), Option.some.inj (hd.symm.trans hl)]
    | succ k => exact toNat_getElem?_hexToBytes hs hb hhi hlo hh hl

/-- HEX_TO_BYTES of an accepted text (R105). -/
theorem outcomeOf_hexToBytes_of_some {p : Params} {q : Request} {out : Bytes} (h : hexToBytes q.input = some out) :
    outcomeOf .hexToBytes p q = .ok { out := out } := by
  simp only [outcomeOf, h]

/-- HEX_TO_BYTES of any other text (R105). -/
theorem outcomeOf_hexToBytes_of_none {p : Params} {q : Request} (h : hexToBytes q.input = none) :
    outcomeOf .hexToBytes p q = .error ⟨.malformedHex, 0x00⟩ := by
  simp only [outcomeOf, h]

/-- Settles O13: the accepted texts are those of the first clause, and OUT is half as long as IN. -/
theorem hexToBytesMeaning : Obligations.HexToBytesMeaning := by
  unfold Obligations.HexToBytesMeaning
  refine ⟨rfl, fun s => ⟨fun heven hdigits hcap => ?_, fun hbad => ?_⟩⟩
  · obtain ⟨out, hout⟩ := (exists_hexToBytes_iff s.req.input).mpr ⟨heven, hdigits⟩
    have hlen := hexToBytes_length hout
    exact ⟨out, hlen, fun k b hi lo h l => toNat_getElem?_hexToBytes hout,
      exec_of_out (outcomeOf_hexToBytes_of_some hout) (by omega)⟩
  · cases hout : hexToBytes s.req.input with
    | none => exact exec_of_error (outcomeOf_hexToBytes_of_none hout)
    | some out =>
      obtain ⟨heven, hdigits⟩ := (exists_hexToBytes_iff s.req.input).mp ⟨out, hout⟩
      obtain hodd | ⟨c, hc, hno⟩ := hbad
      · omega
      · obtain ⟨d, hd⟩ := hdigits c hc
        exact absurd hd (hno d)

/-- The text of a byte string is the two digits of each byte, read in the digit table (R106). -/
theorem bytesToHex_eq_flatMap (s : Bytes) :
    bytesToHex s = s.flatMap fun b => [lowerDigits.getD (b.toNat / 16) 0x00, lowerDigits.getD (b.toNat % 16) 0x00] := by
  induction s with
  | nil => rfl
  | cons b s ih =>
    have hb := b.isLt
    rw [bytesToHex, ih, hexDigit_eq (by omega), hexDigit_eq (by omega)]
    rfl

/-- Settles O14: OUT is twice as long as IN. -/
theorem bytesToHexMeaning : Obligations.BytesToHexMeaning := by
  unfold Obligations.BytesToHexMeaning
  refine ⟨rfl, fun s => ?_⟩
  have hout : outcomeOf .bytesToHex s.params s.req = .ok { out := bytesToHex s.req.input } := rfl
  rw [← bytesToHex_eq_flatMap, ← bytesToHex_length]
  exact ⟨exec_of_out hout, exec_of_out_overCapacity hout⟩

/-- The text of a byte string spells it (R110). -/
theorem hexToBytes_bytesToHex (s : Bytes) : hexToBytes (bytesToHex s) = some s := by
  induction s with
  | nil => rfl
  | cons b s ih =>
    have hb := b.isLt
    have hbyte : b = BitVec.ofNat 8 (16 * (b.toNat / 16) + b.toNat % 16) := by
      rw [Nat.div_add_mod, BitVec.ofNat_toNat, BitVec.setWidth_eq]
    exact (hexToBytes_cons_cons_iff _ _ _ _).mpr
      ⟨_, _, s, hexVal_hexDigit (by omega), hexVal_hexDigit (by omega), ih, congrArg (· :: s) hbyte⟩

/-- The digit written for the value of a digit is that digit in lower case (R104, R106). -/
theorem hexDigit_of_hexVal {c : Byte} {d : Nat} (h : hexVal c = some d) : hexDigit d = lowerByte c := by
  unfold hexVal at h
  split_ifs at h with hdigit hlower hupper <;> cases h
  · rw [hexDigit, if_pos (by omega), lowerByte, if_neg (by omega)]
    bv_omega
  · rw [hexDigit, if_neg (by omega), lowerByte, if_neg (by omega)]
    bv_omega
  · rw [hexDigit, if_neg (by omega), lowerByte, if_pos hupper]
    bv_omega

/-- The text of what a text spells is that text in lower case (R110). -/
theorem bytesToHex_of_hexToBytes : ∀ {t s : Bytes}, hexToBytes t = some s → bytesToHex s = t.map lowerByte
  | [], _, h => by cases h; rfl
  | [_], _, h => by cases h
  | hi :: lo :: rest, _, ht => by
    obtain ⟨h, l, s, hh, hl, hs, rfl⟩ := (hexToBytes_cons_cons_iff hi lo rest _).mp ht
    have hlt := hexVal_lt hl
    have hdiv : (16 * h + l) / 16 = h := by omega
    have hmod : (16 * h + l) % 16 = l := by omega
    rw [bytesToHex, toNat_ofNat_digits hh hl, hdiv, hmod, hexDigit_of_hexVal hh, hexDigit_of_hexVal hl,
      bytesToHex_of_hexToBytes hs]
    rfl

/-- A byte is in lower case exactly when it is no upper-case digit. -/
theorem lowerByte_eq_self_iff (c : Byte) : lowerByte c = c ↔ ¬(0x41 ≤ c.toNat ∧ c.toNat ≤ 0x46) := by
  unfold lowerByte
  split
  case isTrue h =>
    have hne : c + 0x20 ≠ c := by bv_omega
    exact iff_of_false hne (not_not.mpr h)
  case isFalse h => exact iff_of_true rfl h

/-- Settles O16: both laws, and a text is its own lower case exactly when each of its bytes is. -/
theorem hexConversionLaws : Obligations.HexConversionLaws := by
  unfold Obligations.HexConversionLaws
  refine ⟨hexToBytes_bytesToHex, fun t s h => ?_⟩
  have hlower := bytesToHex_of_hexToBytes h
  refine ⟨hlower, ?_⟩
  calc bytesToHex s = t
    _ ↔ t.map lowerByte = t.map id := by rw [hlower, List.map_id]
    _ ↔ ∀ c ∈ t, ¬(0x41 ≤ c.toNat ∧ c.toNat ≤ 0x46) := by
      simp only [List.map_inj_left, id, lowerByte_eq_self_iff]

end Sys2Proof.Machine

namespace Sys2Proof.Machine

/-! What ENC_LOCAL_AT and ENC_REMOTE_AT come to: the first error that applies, or the frame of their frame data (R120 to R125,
R207); and where the bytes of that frame lie. -/

open Sys2Proof.Safety

/-- Settles O21: no operand is read before the error. -/
theorem rejectedVariantsRaiseNotImplemented : Obligations.RejectedVariantsRaiseNotImplemented := by
  unfold Obligations.RejectedVariantsRaiseNotImplemented
  exact ⟨rfl, rfl, rfl, fun s =>
    ⟨exec_of_error (i := .encQueuedAt) rfl, exec_of_error (i := .encTx) rfl, exec_of_error (i := .encExplicitTx) rfl⟩⟩

/-- What a build comes to: the error that applies, or the frame of the frame data when none does. -/
def frameUnless (error : Option Failure) (data : Bytes) : Except Failure Written :=
  error.elim (.ok { out := wireFrame data }) .error

/-- `Finalize` raises only for data that the length field cannot count (R120). -/
theorem finalize_eq (data : Bytes) :
    finalize data = frameUnless (if 0xFFFF < data.length then some ⟨.payloadTooLarge, 0x00⟩ else none) data := by
  obtain ⟨hl, hf⟩ | ⟨hl, hf⟩ := finalize_cases data
  · rw [hf, if_pos hl]
    rfl
  · rw [hf, if_neg (Nat.not_lt.mpr hl)]
    rfl

theorem frameUnless_eq_ok {e : Option Failure} {data : Bytes} {w : Written} (h : frameUnless e data = .ok w) :
    e = none ∧ w = { out := wireFrame data } := by
  cases e with
  | none => exact ⟨rfl, (Except.ok.inj h).symm⟩
  | some f => cases h

/-- A build of a frame that OUT can hold returns it (R120, R202). -/
theorem exec_of_frame {i : Instr} {s : State} {data : Bytes} (h : outcomeOf i s.params s.req = frameUnless none data)
    (hfits : data.length + 4 ≤ s.params.bufCap) : exec i s = .next (returned { out := 0x7E :: candidate data } s) :=
  candidateOf_eq data ▸ exec_of_out h ((wireFrame_length data).trans_le hfits)

/-- A build of a frame that OUT cannot hold is refused (R55). -/
theorem exec_of_frame_overCapacity {i : Instr} {s : State} {data : Bytes}
    (h : outcomeOf i s.params s.req = frameUnless none data) (hover : s.params.bufCap < data.length + 4) :
    exec i s = .refused .resultOverCapacity :=
  exec_of_out_overCapacity h ((wireFrame_length data).symm ▸ hover)

/-- A build that left no error number had no error to raise, and left its frame in OUT. -/
theorem frame_of_err_eq_zero {i : Instr} {s t : State} {e : Option Failure} {data : Bytes}
    (hout : outcomeOf i s.params s.req = frameUnless e data) (h : exec i s = .next t) (herr : t.res.err = 0x00) :
    e = none ∧ t.res.out = wireFrame data := by
  obtain ⟨w, hw, rfl⟩ := exec_returned_of_err_eq_zero h herr
  obtain ⟨he, rfl⟩ := frameUnless_eq_ok (hout.symm.trans hw)
  exact ⟨he, returned_out _ s⟩

/-- The frame data ENC_LOCAL_AT writes (R78, R122). -/
def localData (q : Request) : Bytes := localAtData (frameIdOperand q) q.argCmd q.argValue

/-- The first error of ENC_LOCAL_AT that applies (R122). -/
def localError (q : Request) : Option Failure :=
  if q.argCmd.length ≠ 2 then some ⟨.invalidCommandName, 0x00⟩
  else if 0xFFFF < 4 + q.argValue.length then some ⟨.payloadTooLarge, 0x00⟩
  else none

theorem localData_length {q : Request} (hcmd : q.argCmd.length = 2) : (localData q).length = 4 + q.argValue.length := by
  simp only [localData, localAtData, List.length_append, List.length_cons, List.length_nil, hcmd]

/-- ENC_LOCAL_AT comes to its first error or its frame (R122). -/
theorem buildLocalAt_eq (q : Request) : buildLocalAt q = frameUnless (localError q) (localData q) := by
  unfold buildLocalAt localError
  obtain ⟨hcmd, hc⟩ | ⟨hcmd, hc⟩ := commandOperand_cases q <;> simp only [hc]
  · rw [if_neg (not_not.mpr hcmd), ← localData_length hcmd]
    exact finalize_eq _
  · rw [if_pos hcmd]
    rfl

theorem localError_eq_none_iff (q : Request) :
    localError q = none ↔ q.argCmd.length = 2 ∧ 4 + q.argValue.length ≤ 0xFFFF := by
  simp [localError, ite_eq_iff]

/-- Settles O17: the two errors in their order, then a frame four bytes longer than its data. -/
theorem encLocalAtMeaning : Obligations.EncLocalAtMeaning := by
  unfold Obligations.EncLocalAtMeaning
  refine ⟨rfl, fun s => ?_⟩
  have hout : outcomeOf .encLocalAt s.params s.req = _ := buildLocalAt_eq s.req
  refine ⟨fun hcmd => ?_, fun hcmd hlen => ?_, fun hcmd hlen hcap => ?_, fun hcmd hlen hcap => ?_⟩
  · rw [localError, if_pos hcmd] at hout
    exact exec_of_error hout
  · rw [localError, if_neg (not_not.mpr hcmd), if_pos hlen] at hout
    exact exec_of_error hout
  all_goals
    rw [(localError_eq_none_iff s.req).mpr ⟨hcmd, hlen⟩] at hout
    have hdata := localData_length hcmd
  · exact exec_of_frame (data := localData s.req) hout (by omega)
  · exact exec_of_frame_overCapacity hout (by omega)

/-- The 64-bit address ENC_REMOTE_AT uses, before its width is checked (R124). -/
def addr64Of (q : Request) : Bytes := if a64Def q then Config.defaultAddr64 else q.argAddr64

/-- The options ENC_REMOTE_AT uses, before their width is checked (R124). -/
def optionsOf (q : Request) : Bytes := if optDef q then [Config.defaultOptions] else q.argOptions

theorem addr64Operand_eq (q : Request) :
    addr64Operand q = if (addr64Of q).length = 8 then .ok (addr64Of q) else .error ⟨.invalidFieldWidth, 0x02⟩ := by
  unfold addr64Operand addr64Of
  cases a64Def q <;> rfl

theorem optionsOperand_eq (q : Request) :
    optionsOperand q = if (optionsOf q).length = 1 then .ok (optionsOf q) else .error ⟨.invalidFieldWidth, 0x03⟩ := by
  unfold optionsOperand optionsOf
  cases optDef q <;> rfl

/-- The frame data ENC_REMOTE_AT writes (R79, R124). -/
def remoteData (q : Request) : Bytes :=
  remoteAtData (frameIdOperand q) (addr64Of q) q.argAddr16 (optionsOf q) q.argCmd q.argValue

/-- The first error of ENC_REMOTE_AT that applies (R124, R207). -/
def remoteError (q : Request) : Option Failure :=
  if q.argCmd.length ≠ 2 then some ⟨.invalidCommandName, 0x00⟩
  else if q.argAddr16.length ≠ 2 then some ⟨.invalidFieldWidth, 0x01⟩
  else if (addr64Of q).length ≠ 8 then some ⟨.invalidFieldWidth, 0x02⟩
  else if (optionsOf q).length ≠ 1 then some ⟨.invalidFieldWidth, 0x03⟩
  else if 0xFFFF < 15 + q.argValue.length then some ⟨.payloadTooLarge, 0x00⟩
  else none

theorem remoteData_length {q : Request} (hcmd : q.argCmd.length = 2) (h16 : q.argAddr16.length = 2)
    (h64 : (addr64Of q).length = 8) (hopt : (optionsOf q).length = 1) :
    (remoteData q).length = 15 + q.argValue.length := by
  simp only [remoteData, remoteAtData, List.length_append, List.length_cons, List.length_nil, hcmd, h16, h64, hopt]

/-- ENC_REMOTE_AT comes to its first error or its frame (R124). -/
theorem buildRemoteAt_eq (q : Request) : buildRemoteAt q = frameUnless (remoteError q) (remoteData q) := by
  simp only [buildRemoteAt, remoteError, commandOperand, addr16Operand, addr64Operand_eq, optionsOperand_eq, ne_eq, ite_not]
  by_cases hcmd : q.argCmd.length = 2 <;> simp only [hcmd, if_true, if_false]
  case neg => rfl
  by_cases h16 : q.argAddr16.length = 2 <;> simp only [h16, if_true, if_false]
  case neg => rfl
  by_cases h64 : (addr64Of q).length = 8 <;> simp only [h64, if_true, if_false]
  case neg => rfl
  by_cases hopt : (optionsOf q).length = 1 <;> simp only [hopt, if_true, if_false]
  case neg => rfl
  rw [← remoteData_length hcmd h16 h64 hopt]
  exact finalize_eq _

theorem remoteError_eq_none_iff (q : Request) :
    remoteError q = none ↔ q.argCmd.length = 2 ∧ q.argAddr16.length = 2 ∧ (addr64Of q).length = 8 ∧
      (optionsOf q).length = 1 ∧ 15 + q.argValue.length ≤ 0xFFFF := by
  simp [remoteError, ite_eq_iff]

/-- Settles O18: the statement's error is `remoteError` by its number and information. -/
theorem encRemoteAtMeaning : Obligations.EncRemoteAtMeaning := by
  unfold Obligations.EncRemoteAtMeaning
  refine ⟨rfl, fun s => ?_⟩
  intro fid a64 opt data error
  have hout : outcomeOf .encRemoteAt s.params s.req = _ := buildRemoteAt_eq s.req
  have herror : error = (remoteError s.req).map fun f => (errorCode f.error, f.info) := by
    simp only [remoteError, apply_ite (Option.map _)]
    rfl
  cases he : remoteError s.req with
  | some f =>
    rw [he] at hout herror
    refine ⟨fun code info h => ?_, fun h => ?_, fun h => ?_⟩
    · cases herror.symm.trans h
      exact exec_of_error hout
    all_goals cases herror.symm.trans h
  | none =>
    rw [he] at hout herror
    obtain ⟨hcmd, h16, h64, hopt, _⟩ := (remoteError_eq_none_iff s.req).mp he
    have hdata := remoteData_length hcmd h16 h64 hopt
    refine ⟨fun code info h => ?_, fun _ hcap => ?_, fun _ hcap => ?_⟩
    · cases herror.symm.trans h
    · exact exec_of_frame (data := remoteData s.req) hout (by omega)
    · exact exec_of_frame_overCapacity hout (by omega)

/-- A frame's bytes after its length field are its frame data and the checksum (R75). -/
theorem drop_three_wireFrame (data : Bytes) : (wireFrame data).drop 3 = data ++ [checksum data] := rfl

/-- A frame's length field counts its frame data (R75). -/
theorem lengthField_wireFrame (data : Bytes) : ((wireFrame data).drop 1).take 2 = lengthBytes data.length := rfl

/-- The bytes at `a` begin with a field of width `n`: that field is read there, and what follows it stands at `a + n`. -/
theorem field_of_drop {out field rest : Bytes} {a n : Nat} (h : out.drop a = field ++ rest) (hn : field.length = n) :
    (out.drop a).take n = field ∧ out.drop (a + n) = rest :=
  ⟨h ▸ List.take_left' hn, by rw [← List.drop_drop, h, List.drop_left' hn]⟩

/-- A frame's last byte is the checksum of all between the length field and it (R75, R120). -/
theorem lastByte_wireFrame (data : Bytes) :
    (wireFrame data)[(wireFrame data).length - 1]? =
      some (checksumByte (((wireFrame data).drop 3).take ((wireFrame data).length - 1 - 3))) := by
  have hlast : (wireFrame data).length - 1 = 3 + data.length := by rw [wireFrame_length]; omega
  rw [hlast, ← List.getElem?_drop, drop_three_wireFrame, Nat.add_sub_cancel_left]
  simp [checksum_eq]

/-- The frame of ENC_LOCAL_AT after its frame id (R78). -/
theorem drop_five_localFrame (q : Request) :
    (wireFrame (localData q)).drop 5 = q.argCmd ++ (q.argValue ++ [checksum (localData q)]) :=
  List.append_assoc _ _ _

/-- Settles O19: each field of R78 begins where the one before it ends. -/
theorem localFramePositions : Obligations.LocalFramePositions := by
  unfold Obligations.LocalFramePositions
  intro s t h herr
  obtain ⟨he, ht⟩ := frame_of_err_eq_zero (i := .encLocalAt) (buildLocalAt_eq s.req) h herr
  obtain ⟨hcmd, hlen⟩ := (localError_eq_none_iff s.req).mp he
  have hdata := localData_length hcmd
  obtain ⟨hcommand, hat7⟩ := field_of_drop (drop_five_localFrame s.req) hcmd
  obtain ⟨hvalue, _⟩ := field_of_drop hat7 rfl
  have hlength : (wireFrame (localData s.req)).length = 8 + s.req.argValue.length := by rw [wireFrame_length]; omega
  rw [ht]
  exact ⟨rfl, hdata ▸ lengthField_wireFrame _, hlen, rfl, rfl, hcommand, hvalue, lastByte_wireFrame _, hlength⟩

/-- The frame of ENC_REMOTE_AT after its frame id (R79). -/
theorem drop_five_remoteFrame (q : Request) :
    (wireFrame (remoteData q)).drop 5 =
      addr64Of q ++ (q.argAddr16 ++ (optionsOf q ++ (q.argCmd ++ (q.argValue ++ [checksum (remoteData q)])))) := by
  rw [← List.drop_drop (i := 2) (j := 3), drop_three_wireFrame]
  simp [remoteData, remoteAtData]

/-- Settles O20: each field of R79 begins where the one before it ends. -/
theorem remoteFramePositions : Obligations.RemoteFramePositions := by
  unfold Obligations.RemoteFramePositions
  intro s t h herr
  obtain ⟨he, ht⟩ := frame_of_err_eq_zero (i := .encRemoteAt) (buildRemoteAt_eq s.req) h herr
  obtain ⟨hcmd, h16, h64, hopt, hlen⟩ := (remoteError_eq_none_iff s.req).mp he
  have hdata := remoteData_length hcmd h16 h64 hopt
  obtain ⟨haddr64, hat13⟩ := field_of_drop (drop_five_remoteFrame s.req) h64
  obtain ⟨haddr16, hat15⟩ := field_of_drop hat13 h16
  obtain ⟨hoptions, hat16⟩ := field_of_drop hat15 hopt
  obtain ⟨hcommand, hat18⟩ := field_of_drop hat16 hcmd
  obtain ⟨hvalue, _⟩ := field_of_drop hat18 rfl
  have hlength : (wireFrame (remoteData s.req)).length = 19 + s.req.argValue.length := by rw [wireFrame_length]; omega
  rw [ht]
  exact ⟨hlength, rfl, rfl, haddr64, haddr16, hoptions, hcommand, hvalue, hdata ▸ lengthField_wireFrame _, hlen,
    lastByte_wireFrame _⟩

end Sys2Proof.Machine

namespace Sys2Proof.Machine

/-! The splitter (R140 to R143): its recursion on the bytes is the loop of R140, and its segments are the noise and the candidates. -/

open Sys2Proof.Safety

/-- Any byte but the start byte joins the noise of what follows it. -/
theorem noise_other {b : Byte} (h : b ≠ Config.startByte) (s : Bytes) :
    (b :: s).takeWhile (· != 0x7E) = b :: s.takeWhile (· != 0x7E) :=
  List.takeWhile_cons_of_pos (bne_iff_ne.mpr h)

/-- The segments are the noise before the first start byte, and the candidates (R140). -/
theorem segments_eq_cons_splitFrames (s : Bytes) : segments s = s.takeWhile (· != 0x7E) :: splitFrames s := by
  induction s with
  | nil => rfl
  | cons b s ih =>
    by_cases h : b = Config.startByte
    · subst h
      rw [splitFrames_start, segments_start]
      rfl
    · obtain ⟨cur, segs, hs, hb⟩ := segments_other h s
      obtain ⟨rfl, rfl⟩ := List.cons.inj (hs.symm.trans ih)
      rw [hb, splitFrames_other h, noise_other h]

/-- The loop of R140 from any point on: what it closed so far, then the segments of the rest, the first of them joined to the
current segment. -/
theorem foldl_splitLoopStep (s : Bytes) : ∀ (closed : List Bytes) (cur : Bytes),
    (s.foldl splitLoopStep (closed, cur)).1 ++ [(s.foldl splitLoopStep (closed, cur)).2] =
      closed ++ (segments s).modifyHead (cur ++ ·) := by
  induction s with
  | nil => simp [segments]
  | cons b s ih =>
    intro closed cur
    rw [List.foldl_cons]
    by_cases h : b = Config.startByte
    · have hstep : splitLoopStep (closed, cur) b = (closed ++ [cur], []) := if_pos h
      rw [hstep, ih, h, segments_start, segments_eq_cons_splitFrames s]
      simp
    · have hstep : splitLoopStep (closed, cur) b = (closed, cur ++ [b]) := if_neg h
      obtain ⟨first, segs, hs, hb⟩ := segments_other h s
      rw [hstep, ih, hs, hb]
      simp

/-- The splitter finds the candidates that the loop of R140 finds. -/
theorem splitLoop_eq_splitFrames (s : Bytes) : splitLoop s = splitFrames s := by
  rw [splitLoop, foldl_splitLoopStep, segments_eq_cons_splitFrames s]
  rfl

/-- Settles O23: there are no more candidates than IN has bytes, so CANDS holds them. -/
theorem splitMeaning : Obligations.SplitMeaning := by
  unfold Obligations.SplitMeaning
  refine ⟨rfl, fun s hin => ?_⟩
  rw [splitLoop_eq_splitFrames]
  have hout : outcomeOf .split s.params s.req = .ok { cands := splitFrames s.req.input } := rfl
  exact exec_of_ok hout (by simp [fits_iff, (splitFrames_length_le s.req.input).trans hin])

/-- Each start byte opens one candidate (R143). -/
theorem splitFrames_length (s : Bytes) : (splitFrames s).length = s.count 0x7E := by
  induction s with
  | nil => rfl
  | cons b s ih =>
    by_cases h : b = Config.startByte
    · rw [h, splitFrames_start, segments_eq_cons_splitFrames, List.length_cons, ih]
      exact List.count_cons_self.symm
    · rw [splitFrames_other h, ih]
      exact (List.count_cons_of_ne h).symm

/-- The splitter loses no byte: the noise, then each candidate after its start byte (R143). -/
theorem noise_append_splitFrames (s : Bytes) :
    s.takeWhile (· != 0x7E) ++ ((splitFrames s).flatMap fun c => 0x7E :: c) = s := by
  induction s with
  | nil => rfl
  | cons b s ih =>
    by_cases h : b = Config.startByte
    · rw [h, splitFrames_start, segments_eq_cons_splitFrames, List.flatMap_cons, List.cons_append, ih]
      rfl
    · rw [splitFrames_other h, noise_other h, List.cons_append, ih]

/-- Bytes before a start byte that hold none themselves are noise (R143). -/
theorem splitFrames_noise_append {n : Bytes} (h : (0x7E : Byte) ∉ n) (s : Bytes) :
    splitFrames (n ++ s) = splitFrames s := by
  induction n with
  | nil => rfl
  | cons b n ih =>
    have hb : b ≠ Config.startByte := (List.ne_of_not_mem_cons h).symm
    rw [List.cons_append, splitFrames_other hb, ih (List.not_mem_of_not_mem_cons h)]

/-- Two frames without inner start bytes are split into themselves (R143). -/
theorem splitFrames_two_clean {a b : Bytes} (ha : (0x7E : Byte) ∉ a) (hb : (0x7E : Byte) ∉ b) :
    splitFrames ((0x7E :: a) ++ (0x7E :: b)) = [a, b] :=
  calc splitFrames ((0x7E :: a) ++ (0x7E :: b))
      _ = segments (a ++ Config.startByte :: b) := splitFrames_start _
      _ = a :: segments b := segments_clean_start b ha
      _ = [a, b] := by rw [segments_clean hb]

/-- Settles O24: one lemma for each law; the last one needs nothing of what follows the noise. -/
theorem splitLaws : Obligations.SplitLaws := by
  unfold Obligations.SplitLaws
  exact ⟨splitFrames_length, fun _ _ => startByte_notMem_splitFrames, fun buf => (noise_append_splitFrames buf).symm,
    fun _ _ => splitFrames_two_clean, fun _ buf hn _ => splitFrames_noise_append hn buf⟩

/-- Settles O25: the start byte inside opens a second candidate, and no candidate holds a start byte as the frame does. -/
theorem delimiterInsideFrameBreaksIt : Obligations.DelimiterInsideFrameBreaksIt := by
  unfold Obligations.DelimiterInsideFrameBreaksIt
  intro c hc
  refine ⟨?_, fun hmem => startByte_notMem_splitFrames hmem hc⟩
  rw [splitFrames_length, List.count_cons_self]
  exact Nat.succ_le_succ (List.count_pos_iff.mpr hc)

end Sys2Proof.Machine

namespace Sys2Proof.Machine

/-! The validator's checks in the spec's terms (R150 to R155), and VALIDATE. -/

open Sys2Proof.Safety

/-- Frame data is what is left without the two length bytes and the last byte (R82). -/
theorem frameDataOf_eq (c : Bytes) : frameDataOf c = (c.drop 2).dropLast := by
  rw [frameDataOf, slice, List.dropLast_eq_take, List.length_drop, Nat.sub_right_comm]

/-- The declared checksum is the last byte (R82). -/
theorem declaredChecksum_eq (c : Bytes) : declaredChecksum c = c.getLastD 0x00 := by
  rw [declaredChecksum, byteAt, List.getD_eq_getElem?_getD, List.getLastD_eq_getLast?, List.getLast?_eq_getElem?]

/-- The first check a candidate fails, if it fails one (R151, R153, R154). -/
def candidateError (c : Bytes) : Option Failure :=
  if c.length < 4 then some ⟨.frameTooShort, 0x00⟩
  else if (c.drop 2).dropLast.length ≠ 256 * (c.getD 0 0x00).toNat + (c.getD 1 0x00).toNat then
    some ⟨.lengthMismatch, 0x00⟩
  else if checksumByte (c.drop 2).dropLast ≠ c.getLastD 0x00 then some ⟨.checksumMismatch, 0x00⟩
  else none

/-- The base record of a candidate that fails no check (R152, R155). -/
def recordOf (c : Bytes) : BaseRecord :=
  { declaredLength := BitVec.ofNat 16 (c.drop 2).dropLast.length, checksum := checksumByte (c.drop 2).dropLast,
    frameData := (c.drop 2).dropLast, apiId := (c.drop 2).dropLast.headD 0x00, frameId := (c.drop 2).dropLast[1]? }

/-- The first byte, or 0 when there is none. -/
theorem byteAt_zero (p : Bytes) : byteAt p 0 = p.headD 0x00 := by cases p <;> rfl

/-- The validator comes to the first failed check or the base record (R150). -/
theorem validateCandidate_eq (c : Bytes) : validateCandidate c = (candidateError c).elim (.ok (recordOf c)) .error := by
  have hdeclared : 256 * (c.getD 0 0x00).toNat + (c.getD 1 0x00).toNat = declaredLength c := rfl
  rw [candidateError, recordOf, hdeclared, ← frameDataOf_eq, ← declaredChecksum_eq, ← checksum_eq, validateCandidate]
  split_ifs with hshort hlength hsum
  case neg =>
    rw [not_not] at hlength hsum
    simp only [hlength, hsum, byteAt_zero, fieldByte_eq, Option.elim]
  all_goals rfl

theorem exec_validate_of_error {s : State} {f : Failure} (h : validateCandidate s.req.input = .error f) :
    exec .validate s = .next (raised (errorCode f.error) f.info s) :=
  exec_of_error (by simp only [outcomeOf, h])

theorem exec_validate_of_ok {s : State} {b : BaseRecord} (h : validateCandidate s.req.input = .ok b) :
    exec .validate s = .next (returned { base := some b } s) :=
  exec_of_ok (by simp only [outcomeOf, h]) (fits_base s.params b)

/-- VALIDATE raises the first failed check, or returns the base record; it is never refused (R156). -/
theorem exec_validate (s : State) :
    exec .validate s =
      .next
        ((candidateError s.req.input).elim (returned { base := some (recordOf s.req.input) } s)
          fun f => raised (errorCode f.error) f.info s) := by
  have hv := validateCandidate_eq s.req.input
  cases he : candidateError s.req.input with
  | none =>
    rw [he] at hv
    exact exec_validate_of_ok hv
  | some f =>
    rw [he] at hv
    exact exec_validate_of_error hv

/-- Settles O26: the statement's chain is that of `candidateError`. -/
theorem validateMeaning : Obligations.ValidateMeaning := by
  unfold Obligations.ValidateMeaning
  refine ⟨rfl, fun s => ?_⟩
  rw [exec_validate, candidateError]
  dsimp only
  split_ifs <;> rfl

end Sys2Proof.Machine

namespace Sys2Proof.Machine

/-! The parser: the first error that applies, or the Response of the candidate's api_id (R158 to R160), and PARSE. -/

open Sys2Proof.Safety

/-- The dispatch rejects every api_id but the two of response frames (R160). -/
def apiError (api : Byte) : Option Failure :=
  if api ≠ 0x97 ∧ api ≠ 0x88 then some ⟨.unknownApiId, api⟩ else none

/-- The first error of the parser that applies (R168). -/
def parseError (c : Bytes) : Option Failure := (candidateError c).or (apiError ((c.drop 2).dropLast.headD 0x00))

/-- The Response the parser answers when no error applies (R158). -/
def responseOf (layout : RespLayout) (c : Bytes) : Response :=
  if (c.drop 2).dropLast.headD 0x00 = 0x97 then remoteResponse layout c (baseOf 0x97 (c.drop 2).dropLast.tail)
  else localResponse layout c (baseOf 0x88 (c.drop 2).dropLast.tail)

/-- A candidate that fails no check holds frame data, an api_id and a body, and its record is theirs (R82, R150, R155). -/
theorem recordOf_eq_baseOf_of_candidateError_eq_none {c : Bytes} (h : candidateError c = none) :
    ∃ (api : Byte) (body : Bytes), (c.drop 2).dropLast = api :: body ∧ recordOf c = baseOf api body := by
  have hv := validateCandidate_eq c
  rw [h] at hv
  obtain ⟨api, body, _, hc, hb⟩ := (validateCandidate_ok_iff c _).mp hv
  refine ⟨api, body, ?_, hb⟩
  rw [← frameDataOf_eq, hc, frameDataOf_candidateOf]

/-- The dispatch raises for an api_id it does not decode, and else answers the Response of that kind (R158, R160). -/
theorem parseBase_baseOf (l : RespLayout) (c : Bytes) (api : Byte) (body : Bytes) :
    parseBase l c (baseOf api body) =
      (apiError api).elim
        (.ok (if api = 0x97 then remoteResponse l c (baseOf 0x97 body) else localResponse l c (baseOf 0x88 body)))
        .error := by
  obtain ⟨rfl, hp⟩ | ⟨rfl, hp⟩ | ⟨h97, h88, hp⟩ := parseBase_cases l c (baseOf api body)
  · exact hp
  · exact hp
  · have he : apiError api = some ⟨.unknownApiId, api⟩ := if_pos ⟨h97, h88⟩
    rw [he]
    exact hp

/-- The parser comes to its first error or its Response (R158). -/
theorem parseCandidate_eq (l : RespLayout) (c : Bytes) :
    parseCandidate l c = (parseError c).elim (.ok (responseOf l c)) .error := by
  rw [parseCandidate, validateCandidate_eq, parseError]
  cases he : candidateError c with
  | some f => rfl
  | none =>
    obtain ⟨api, body, hp, hb⟩ := recordOf_eq_baseOf_of_candidateError_eq_none he
    simp only [Option.elim_none, Option.none_or, responseOf, hp, hb, List.headD_cons, List.tail_cons]
    exact parseBase_baseOf l c api body

theorem exec_parse_of_error {s : State} {f : Failure}
    (h : parseCandidate s.params.respLayout s.req.input = .error f) :
    exec .parse s = .next (raised (errorCode f.error) f.info s) :=
  exec_of_error (by simp only [outcomeOf, h])

theorem outcomeOf_parse_of_ok {p : Params} {q : Request} {r : Response}
    (h : parseCandidate p.respLayout q.input = .ok r) : outcomeOf .parse p q = .ok { results := [.ok r] } := by
  simp only [outcomeOf, h]

/-- PARSE returns the parser's Response when RESULTS can hold one element (R55, R168). -/
theorem exec_parse_of_ok {s : State} {r : Response} (h : parseCandidate s.params.respLayout s.req.input = .ok r)
    (hcap : 1 ≤ s.params.bufCap) : exec .parse s = .next (returned { results := [.ok r] } s) :=
  exec_of_ok (outcomeOf_parse_of_ok h) (by simp [fits_results, hcap])

/-- Settles O27: the statement's error is `parseError` by its number and information, and its response is `responseOf`. -/
theorem parseMeaning : Obligations.ParseMeaning := by
  unfold Obligations.ParseMeaning
  refine ⟨rfl, fun s => ?_⟩
  intro c p api error response
  have hparse : parseCandidate s.params.respLayout c = (parseError c).elim (.ok response) .error :=
    parseCandidate_eq s.params.respLayout c
  have herror : error = (parseError c).map fun f => (errorCode f.error, f.info) := by
    simp only [error, api, p, parseError, candidateError, apiError]
    split_ifs <;> rfl
  cases he : parseError c with
  | some f =>
    rw [he] at hparse herror
    refine ⟨fun code info h => ?_, fun h => ?_, fun h => ?_⟩
    · cases herror.symm.trans h
      exact exec_parse_of_error hparse
    all_goals cases herror.symm.trans h
  | none =>
    rw [he] at hparse herror
    refine ⟨fun code info h => ?_, fun _ hcap => exec_parse_of_ok hparse hcap, fun _ hcap => ?_⟩
    · cases herror.symm.trans h
    · exact exec_of_overflows (outcomeOf_parse_of_ok hparse ▸ (overflows_results_iff _ _).mpr hcap)


@[simp] theorem remoteResponse_frameId (l : RespLayout) (c : Bytes) (b : BaseRecord) :
    (remoteResponse l c b).frameId = b.frameId := by cases l <;> rfl
@[simp] theorem remoteResponse_commandPayload (l : RespLayout) (c : Bytes) (b : BaseRecord) :
    (remoteResponse l c b).commandPayload = commandPayloadOf b.frameData := by cases l <;> rfl
@[simp] theorem localResponse_frameId (l : RespLayout) (c : Bytes) (b : BaseRecord) :
    (localResponse l c b).frameId = b.frameId := by cases l <;> rfl
@[simp] theorem localResponse_commandPayload (l : RespLayout) (c : Bytes) (b : BaseRecord) :
    (localResponse l c b).commandPayload = commandPayloadOf b.frameData := by cases l <;> rfl

/-- Settles O30: no error of the parser reads the layout, and no base field of a Response of either kind does. -/
theorem parseOutcomeIgnoresLayout : Obligations.ParseOutcomeIgnoresLayout := by
  unfold Obligations.ParseOutcomeIgnoresLayout
  intro c
  rw [parseCandidate_eq, parseCandidate_eq]
  cases parseError c with
  | some f => exact .inl ⟨f, rfl, rfl⟩
  | none =>
    refine .inr ⟨_, _, rfl, rfl, ?_⟩
    unfold responseOf
    split <;> simp

/-- The parser answers a Response exactly for the candidate of frame data that fits the length field and begins with an api_id of
a response frame (R158, R172). -/
theorem exists_parseCandidate_ok_iff (l : RespLayout) (c : Bytes) :
    (∃ r, parseCandidate l c = .ok r) ↔
      ∃ (api : Byte) (body : Bytes), body.length + 1 ≤ 0xFFFF ∧ c = candidate (api :: body) ∧
        (api = 0x88 ∨ api = 0x97) := by
  constructor
  · rintro ⟨r, h⟩
    obtain ⟨b, hv, hp⟩ := (parseCandidate_ok_iff l c r).mp h
    obtain ⟨api, body, hl, hc, rfl⟩ := (validateCandidate_ok_iff c b).mp hv
    refine ⟨api, body, hl, hc.trans (candidateOf_eq _), ?_⟩
    obtain ⟨h97, _⟩ | ⟨h88, _⟩ | ⟨_, _, he⟩ := parseBase_cases l c (baseOf api body)
    · exact .inr h97
    · exact .inl h88
    · cases he.symm.trans hp
  · rintro ⟨api, body, hl, rfl, hapi⟩
    have hv := validateCandidate_candidateOf (api := api) hl
    rw [candidateOf_eq] at hv
    obtain rfl | rfl := hapi
    all_goals exact ⟨_, (parseCandidate_ok_iff l _ _).mpr ⟨_, hv, parseBase_baseOf l _ _ body⟩⟩

/-- PARSE that completed raised the parser's error, or returned its one Response (R168). -/
theorem exec_parse_next {s t : State} (h : exec .parse s = .next t) :
    (∃ f, parseCandidate s.params.respLayout s.req.input = .error f ∧ t = raised (errorCode f.error) f.info s) ∨
      ∃ r, parseCandidate s.params.respLayout s.req.input = .ok r ∧ t = returned { results := [.ok r] } s := by
  cases hp : parseCandidate s.params.respLayout s.req.input with
  | error f => exact .inl ⟨f, rfl, Host.Outcome.next.inj (h.symm.trans (exec_parse_of_error hp))⟩
  | ok r =>
    obtain ⟨f, hf, _⟩ | ⟨w, hw, _, rfl⟩ := exec_next h
    · cases (outcomeOf_parse_of_ok hp).symm.trans hf
    · cases (outcomeOf_parse_of_ok hp).symm.trans hw
      exact .inr ⟨r, rfl, rfl⟩

end Sys2Proof.Machine

namespace Sys2Proof.Machine

/-! DECODE_STREAM: what PARSE comes to, candidate by candidate (R169, R170, R172). -/

open Sys2Proof.Safety

/-- DECODE_STREAM that completed wrote the candidates of IN, and for each the parser's result (R169). -/
theorem exec_decodeStream_next {s t : State} (h : exec .decodeStream s = .next t) :
    t.res.cands = splitFrames s.req.input ∧
      t.res.results = t.res.cands.map fun c => decodeResultOf (parseCandidate s.params.respLayout c) := by
  obtain ⟨f, hf, _⟩ | ⟨w, hw, _, rfl⟩ := exec_next h
  · cases hf
  · cases hw
    exact ⟨rfl, rfl⟩

/-- DECODE_STREAM of an IN within capacity is not refused: there are no more candidates than bytes (R55, R141). -/
theorem exec_decodeStream_of_le {s : State} (h : s.req.input.length ≤ s.params.bufCap) :
    exec .decodeStream s =
      .next
        (returned
          { cands := splitFrames s.req.input
            results := (splitFrames s.req.input).map fun c => decodeResultOf (parseCandidate s.params.respLayout c) } s) := by
  have hle := (splitFrames_length_le s.req.input).trans h
  exact exec_of_ok (i := .decodeStream) rfl (by simp [fits_iff, hle])

/-- PARSE of a candidate completes when RESULTS can hold one element, and what it leaves is the candidate's result: its one
Response, or its error (R168, R169). -/
theorem exec_parse_decodeResultOf {s : State} (hcap : 1 ≤ s.params.bufCap) :
    ∃ t, exec .parse s = .next t ∧
      ((t.res.err = 0x00 ∧
          t.res.results = [decodeResultOf (parseCandidate s.params.respLayout s.req.input)]) ∨
        (t.res.err ≠ 0x00 ∧
          decodeResultOf (parseCandidate s.params.respLayout s.req.input) = .err t.res.err t.res.errInfo)) := by
  cases hp : parseCandidate s.params.respLayout s.req.input with
  | ok r => exact ⟨_, exec_parse_of_ok hp hcap, .inl ⟨rfl, rfl⟩⟩
  | error f =>
    have hne : errorCode f.error ≠ 0x00 := mt errorCode_eq_zero.mp (parseCandidate_error_ne_none hp)
    exact ⟨_, exec_parse_of_error hp, .inr ⟨hne, rfl⟩⟩

/-- Settles O28: each element of RESULTS is the parser's result of its candidate, which is what PARSE leaves. A candidate is found
only in an IN that is not empty, so RESULTS can hold the one element of PARSE. -/
theorem decodeStreamMeaning : Obligations.DecodeStreamMeaning := by
  unfold Obligations.DecodeStreamMeaning
  refine ⟨rfl, fun s hin => ?_⟩
  rw [splitLoop_eq_splitFrames]
  refine ⟨_, exec_decodeStream_of_le hin, List.length_map _, fun k c hk => ?_⟩
  have hlt : k < (splitFrames s.req.input).length := (List.getElem?_eq_some_iff.mp hk).1
  have hcap : 1 ≤ s.params.bufCap := by
    have := splitFrames_length_le s.req.input
    omega
  rw [List.getElem?_map, hk]
  obtain ⟨t, ht, ⟨herr, hres⟩ | ⟨herr, hres⟩⟩ :=
    exec_parse_decodeResultOf (s := { s with req := { s.req with input := c } }) hcap
  · exact ⟨t, ht, .inl ⟨herr, _, hres, rfl⟩⟩
  · exact ⟨t, ht, .inr ⟨herr, congrArg some hres⟩⟩

/-- Settles O34: RESULTS is the candidates' list under one function, which the layout alone determines. -/
theorem streamResultsAreIndependent : Obligations.StreamResultsAreIndependent := by
  unfold Obligations.StreamResultsAreIndependent
  intro s₁ s₂ t₁ t₂ hlayout h₁ h₂
  obtain ⟨_, hr₁⟩ := exec_decodeStream_next h₁
  obtain ⟨_, hr₂⟩ := exec_decodeStream_next h₂
  rw [hr₁, hr₂, hlayout]
  refine ⟨List.length_map _, fun j k hjk => ?_⟩
  rw [List.getElem?_map, List.getElem?_map, hjk]

/-- Settles O35: either operation writes a Response exactly where the parser answers one. -/
theorem responseExactlyForValidCandidate : Obligations.ResponseExactlyForValidCandidate := by
  unfold Obligations.ResponseExactlyForValidCandidate
  refine ⟨fun s t h => ?_, fun s t h k c hk => ?_⟩
  · refine Iff.trans ?_ (exists_parseCandidate_ok_iff s.params.respLayout s.req.input)
    obtain ⟨f, hp, rfl⟩ | ⟨r, hp, rfl⟩ := exec_parse_next h <;> simp [hp]
  · refine Iff.trans ?_ (exists_parseCandidate_ok_iff s.params.respLayout c)
    rw [(exec_decodeStream_next h).2, List.getElem?_map, hk]
    simp [decodeResultOf_eq_ok_iff]

end Sys2Proof.Machine

namespace Sys2Proof.Machine

/-! The fields of a Response in the spec's terms (R161 to R167). -/

open Sys2Proof.Safety

/-- A field of several bytes is the slice claims are stated with (R162). -/
theorem fieldBytes_eq (p : Bytes) (a b : Nat) : fieldBytes p a b = fieldAt p a b := rfl

/-- The status kinds are the list of R166. -/
theorem statusKindOf_eq : statusKindOf = kindOfStatus := by
  funext status
  unfold statusKindOf kindOfStatus
  split
  case h_6 =>
    have hge : 5 ≤ status.toNat := by grind
    exact (List.getD_eq_default _ _ hge).symm
  all_goals
    rename_i h
    rw [h]
    rfl

/-- The kind is OK for the status byte 0x00 only (R166). -/
theorem statusKindOf_eq_ok_iff (status : Byte) : statusKindOf status = .ok ↔ status = 0x00 := by
  constructor
  · intro h
    unfold statusKindOf at h
    split at h <;> cases h
    exact BitVec.eq_of_toNat_eq ‹_›
  · rintro rfl
    rfl

/-- `is_ok` says that the status byte is there and is 0x00 (R167). -/
theorem isOkOf_eq (status : Option Byte) : isOkOf status = decide (status = some 0x00) := by
  cases status <;> simp [isOkOf, statusKindOf_eq_ok_iff]

/-- `node_id` is the rest of the frame data, less one final 0x00 (R165). -/
theorem nodeIdField_eq (p : Bytes) (a : Nat) : nodeIdField p a = nodeIdAt p a := by
  unfold nodeIdField nodeIdAt
  by_cases hle : p.length ≤ a
  · rw [if_pos hle, if_pos hle]
  · have hlast : (p.drop a).getLast? = some (byteAt p (p.length - 1)) := by
      rw [List.getLast?_drop, if_neg hle, List.getLast?_eq_getElem?, byteAt, List.getD_eq_getElem?_getD,
        List.getElem?_eq_getElem (by omega)]
      rfl
    have hall : slice p a p.length = p.drop a := List.take_of_length_le (List.length_drop.le)
    have hinit : slice p a (p.length - 1) = (p.drop a).dropLast := by
      rw [slice, List.dropLast_eq_take, List.length_drop, Nat.sub_right_comm]
    simp only [if_neg hle, hlast, hall, hinit, Option.some.injEq]

/-- The command payload is the body after the frame id (R159). -/
theorem commandPayloadOf_cons (api : Byte) (body : Bytes) : commandPayloadOf (api :: body) = body.drop 1 := rfl

/-- Settles O29: each field is read off its row of the layout's table, and each kind of field is the spec's. -/
theorem responseFieldsByLayout : Obligations.ResponseFieldsByLayout := by
  unfold Obligations.ResponseFieldsByLayout
  intro body p q
  simp only [remoteResponse, localResponse, remoteRows, localRows, baseOf, fieldByte_eq, fieldBytes_eq, isOkOf_eq,
    statusKindOf_eq, nodeIdField_eq, commandPayloadOf_cons, and_self, p, q]

end Sys2Proof.Machine

namespace Sys2Proof.Machine

/-! One byte of a candidate changed (R157). -/

open Sys2Proof.Safety

/-- The candidate layout (R82) with any two length bytes, frame data and last byte. -/
def layOut (hi lo : Byte) (data : Bytes) (last : Byte) : Bytes := hi :: lo :: (data ++ [last])

theorem layOut_length (hi lo : Byte) (data : Bytes) (last : Byte) :
    (layOut hi lo data last).length = data.length + 3 := by
  simp [layOut]

theorem frameDataOf_layOut (hi lo : Byte) (data : Bytes) (last : Byte) : frameDataOf (layOut hi lo data last) = data := by
  simp [frameDataOf_eq, layOut]

theorem declaredChecksum_layOut (hi lo : Byte) (data : Bytes) (last : Byte) :
    declaredChecksum (layOut hi lo data last) = last := by
  rw [declaredChecksum_eq]
  exact List.getLastD_concat (l := hi :: lo :: data)

/-- The length check fails when the length bytes do not count the frame data (R153). -/
theorem validateCandidate_layOut_of_length_ne {hi lo : Byte} {data : Bytes} {last : Byte} (hne : data ≠ [])
    (hl : data.length ≠ 256 * hi.toNat + lo.toNat) :
    validateCandidate (layOut hi lo data last) = .error ⟨.lengthMismatch, 0x00⟩ := by
  have hpos := List.length_pos_of_ne_nil hne
  rw [validateCandidate, if_neg (by rw [layOut_length]; omega), if_pos (by rwa [frameDataOf_layOut])]

/-- The checksum check fails when the last byte is not the checksum of the frame data (R154). -/
theorem validateCandidate_layOut_of_checksum_ne {hi lo : Byte} {data : Bytes} {last : Byte} (hne : data ≠ [])
    (hl : data.length = 256 * hi.toNat + lo.toNat) (hc : checksum data ≠ last) :
    validateCandidate (layOut hi lo data last) = .error ⟨.checksumMismatch, 0x00⟩ := by
  have hpos := List.length_pos_of_ne_nil hne
  rw [validateCandidate, if_neg (by rw [layOut_length]; omega), if_neg (by rwa [frameDataOf_layOut, not_not]),
    if_pos (by rwa [frameDataOf_layOut, declaredChecksum_layOut])]

/-- The candidate of frame data that fits the length field, laid out with the length bytes and the checksum that check (R75). -/
theorem candidateOf_eq_layOut {data : Bytes} (hl : data.length ≤ 0xFFFF) :
    ∃ hi lo : Byte, candidateOf data = layOut hi lo data (checksum data) ∧ data.length = 256 * hi.toNat + lo.toNat := by
  refine ⟨BitVec.ofNat 8 (data.length / 256), BitVec.ofNat 8 (data.length % 256), rfl, ?_⟩
  rw [BitVec.toNat_ofNat, BitVec.toNat_ofNat]
  omega

/-- Frame data with one byte changed has another checksum (R109). -/
theorem checksum_set_ne {data : Bytes} {j : Nat} {v : Byte} (hj : j < data.length) (hv : v ≠ data[j]) :
    checksum (data.set j v) ≠ checksum data := by
  have hne := checksum_ne_of_byte_ne (data.take j) (data.drop (j + 1)) hv
  rw [List.getElem_cons_drop, List.take_append_drop] at hne
  rwa [List.set_eq_take_append_cons_drop, if_pos hj]

/-- A candidate that validates, with one byte changed, fails the length check when the byte is a length byte, and else the
checksum check (R157). -/
theorem validateCandidate_layOut_set {hi lo : Byte} {data : Bytes} {k : Nat} {v : Byte} (hne : data ≠ [])
    (hl : data.length = 256 * hi.toNat + lo.toNat) (hk : k < data.length + 3)
    (hv : v ≠ (layOut hi lo data (checksum data)).getD k 0x00) :
    validateCandidate ((layOut hi lo data (checksum data)).set k v) =
      .error ⟨if k < 2 then .lengthMismatch else .checksumMismatch, 0x00⟩ := by
  match k with
  | 0 =>
    have hv' : v.toNat ≠ hi.toNat := mt BitVec.eq_of_toNat_eq hv
    exact validateCandidate_layOut_of_length_ne hne (by omega)
  | 1 =>
    have hv' : v.toNat ≠ lo.toNat := mt BitVec.eq_of_toNat_eq hv
    exact validateCandidate_layOut_of_length_ne hne (by omega)
  | j + 2 =>
    have hset : (layOut hi lo data (checksum data)).set (j + 2) v = hi :: lo :: (data ++ [checksum data]).set j v := rfl
    have hget : (layOut hi lo data (checksum data)).getD (j + 2) 0x00 = (data ++ [checksum data]).getD j 0x00 := rfl
    rw [if_neg (by omega), hset]
    rw [hget] at hv
    by_cases hj : j < data.length
    · rw [List.getD_append _ _ _ _ hj, List.getD_eq_getElem _ _ hj] at hv
      rw [List.set_append_left _ _ hj]
      exact validateCandidate_layOut_of_checksum_ne (by simpa using hne) (by rwa [List.length_set])
        (checksum_set_ne hj hv)
    · obtain rfl : j = data.length := by omega
      rw [List.getD_append_right _ _ _ _ le_rfl, Nat.sub_self] at hv
      rw [List.set_append_right _ _ le_rfl, Nat.sub_self]
      exact validateCandidate_layOut_of_checksum_ne hne hl hv.symm

/-- A byte with one bit flipped is another byte. -/
theorem flipBit_ne {bit : Nat} (x : Byte) (h : bit < 8) : x ^^^ BitVec.ofNat 8 (2 ^ bit) ≠ x := by
  have hmask : ∀ bit < 8, BitVec.ofNat 8 (2 ^ bit) ≠ 0#8 := by decide
  exact fun he => hmask bit h (by simpa using congrArg (x ^^^ ·) he)

/-- VALIDATE that left no error number found IN to be a candidate (R156). -/
theorem exists_candidateOf_of_validate_err_eq_zero {s t : State} (h : exec .validate s = .next t) (herr : t.res.err = 0x00) :
    ∃ (api : Byte) (body : Bytes), body.length + 1 ≤ 0xFFFF ∧ s.req.input = candidateOf (api :: body) := by
  cases hv : validateCandidate s.req.input with
  | ok b =>
    obtain ⟨api, body, hl, hc, _⟩ := (validateCandidate_ok_iff _ b).mp hv
    exact ⟨api, body, hl, hc⟩
  | error f =>
    cases (exec_validate_of_error hv).symm.trans h
    exact absurd (errorCode_eq_zero.mp herr) (validateCandidate_error_ne_none hv)

/-- Settles O31: a flipped bit changes its byte. -/
theorem tamperedCandidateFails : Obligations.TamperedCandidateFails := by
  unfold Obligations.TamperedCandidateFails
  intro s t h herr k bit hk hbit flipped s'
  obtain ⟨api, body, hl, hc⟩ := exists_candidateOf_of_validate_err_eq_zero h herr
  obtain ⟨hi, lo, hlay, hdeclared⟩ := candidateOf_eq_layOut (data := api :: body) hl
  rw [hc, candidateOf_length] at hk
  have hfail := validateCandidate_layOut_set (List.cons_ne_nil api body) hdeclared hk (flipBit_ne _ hbit)
  rw [← hlay, ← hc] at hfail
  rw [exec_validate_of_error (s := s') hfail, apply_ite errorCode]
  rfl

end Sys2Proof.Machine

namespace Sys2Proof.Machine

/-! What ENC_LOCAL_AT builds, through the validator, the parser and the splitter (R171). -/

open Sys2Proof.Safety

/-- A frame is split into itself exactly when its start byte is its only one (R142, R143). -/
theorem splitFrames_frame_eq_self_iff (c : Bytes) : splitFrames (0x7E :: c) = [c] ↔ (0x7E : Byte) ∉ c := by
  constructor
  · exact fun h => startByte_notMem_splitFrames (h ▸ List.mem_singleton_self c)
  · exact fun h => (splitFrames_start c).trans (segments_clean h)

/-- The body of a Local AT Command: frame id, command, value (R78). -/
def localBody (q : Request) : Bytes := frameIdOperand q :: (q.argCmd ++ q.argValue)

theorem localData_eq_cons (q : Request) : localData q = 0x08 :: localBody q := rfl

/-- Settles O33: the candidate validates with the base record of the frame data that was built, whose api_id the dispatch
rejects. -/
theorem localAtRoundTrip : Obligations.LocalAtRoundTrip := by
  unfold Obligations.LocalAtRoundTrip
  intro s t h herr c s'
  obtain ⟨he, ht⟩ := frame_of_err_eq_zero (i := .encLocalAt) (buildLocalAt_eq s.req) h herr
  obtain ⟨hcmd, hlen⟩ := (localError_eq_none_iff s.req).mp he
  have hc : c = candidateOf (0x08 :: localBody s.req) := by
    rw [← localData_eq_cons]
    exact congrArg (List.drop 1) ht
  have hout : t.res.out = 0x7E :: c := by rw [hc, ht]; rfl
  have hbody : (localBody s.req).length + 1 = 4 + s.req.argValue.length := localData_length hcmd
  have hv : validateCandidate c = .ok (baseOf 0x08 (localBody s.req)) :=
    hc ▸ validateCandidate_candidateOf (hbody.trans_le hlen)
  have hparse : parseCandidate s'.params.respLayout c = .error ⟨.unknownApiId, 0x08⟩ := by
    rw [parseCandidate, hv]
    exact parseBase_baseOf _ _ _ _
  refine ⟨⟨_, exec_validate_of_ok hv, rfl, rfl, ?_, ?_, ?_⟩, exec_parse_of_error hparse, ?_⟩
  · exact List.take_left' hcmd
  · exact List.drop_left' hcmd
  · simp only [baseOf, hbody, BitVec.toNat_ofNat]
    omega
  · rw [hout, splitLoop_eq_splitFrames]
    exact splitFrames_frame_eq_self_iff c

end Sys2Proof.Machine

namespace Sys2Proof.Machine

/-! The step of an idle codec, and the issue of an op code that selects no operation (R74, R205, R217). -/

open Sys2Proof.Safety

/-- Settles O53: with no access left the step holds the state. -/
theorem idleCodecHoldsItsState : Obligations.IdleCodecHoldsItsState := by
  unfold Obligations.IdleCodecHoldsItsState
  exact fun _ h => step_idle h

/-- An op code that is none of the 13 of R72 is rejected by the decoder (R74). -/
theorem exists_decodeOp_eq_error {code : Byte}
    (h : code.toNat ∉ [0x10, 0x11, 0x12, 0x13, 0x20, 0x21, 0x22, 0x23, 0x24, 0x30, 0x40, 0x41, 0x42]) :
    ∃ r, decodeOp code = .error r := by
  cases hd : decodeOp code with
  | error r => exact ⟨r, rfl⟩
  | ok i => exact absurd ((legalOpCodesAreTheListed code).mp ⟨i, hd⟩) h

/-- Settles O6: the issue raises `IllegalOp` with the op code, and the host observes the results. -/
theorem illegalOpIssueIsRecorded : Obligations.IllegalOpIssueIsRecorded := by
  unfold Obligations.IllegalOpIssueIsRecorded
  intro s v rest hp hop
  obtain ⟨r, hd⟩ := exists_decodeOp_eq_error hop
  rw [step_issue hp, issue_illegal (s := setPending rest s) hd]
  rfl

end Sys2Proof.Machine

namespace Sys2Proof.Machine

/-! Which instruction can raise which error, and with what information (R27, R203). -/

open Sys2Proof.Safety

@[simp] theorem raised_err (c i : Byte) (s : State) : (raised c i s).res.err = c := rfl
@[simp] theorem raised_errInfo (c i : Byte) (s : State) : (raised c i s).res.errInfo = i := rfl

/-- R203's table, a row for each error an instruction can raise; a received frame, the only instruction encoded in more than one
byte, can raise what the parser can (log entries 4 and 16). -/
inductive CanRaise : Instr → Failure → Prop
  | malformedHex : CanRaise .hexToBytes ⟨.malformedHex, 0x00⟩
  | payloadTooLarge {i : Instr} (hi : i ∈ [Instr.lengthField, .encLocalAt, .encRemoteAt]) :
      CanRaise i ⟨.payloadTooLarge, 0x00⟩
  | invalidCommandName {i : Instr} (hi : i ∈ [Instr.encLocalAt, .encRemoteAt]) : CanRaise i ⟨.invalidCommandName, 0x00⟩
  | invalidFieldWidth {info : Byte} (hinfo : info ∈ ([0x01, 0x02, 0x03] : List Byte)) :
      CanRaise .encRemoteAt ⟨.invalidFieldWidth, info⟩
  | notImplemented {i : Instr} (hi : i ∈ [Instr.encQueuedAt, .encTx, .encExplicitTx]) : CanRaise i ⟨.notImplemented, 0x00⟩
  | frameTooShort {i : Instr} (hi : i ∈ [Instr.validate, .parse]) : CanRaise i ⟨.frameTooShort, 0x00⟩
  | lengthMismatch {i : Instr} (hi : i ∈ [Instr.validate, .parse] ∨ 1 < (encode i).length) :
      CanRaise i ⟨.lengthMismatch, 0x00⟩
  | checksumMismatch {i : Instr} (hi : i ∈ [Instr.validate, .parse]) : CanRaise i ⟨.checksumMismatch, 0x00⟩
  | unknownApiId {i : Instr} {api : Byte} (hi : i = .parse ∨ 1 < (encode i).length) (h88 : api ≠ 0x88) (h97 : api ≠ 0x97) :
      CanRaise i ⟨.unknownApiId, api⟩

/-- What the validator answers for IN is an error of VALIDATE and of PARSE (R150, R156, R158). -/
theorem canRaise_of_validateCandidate {i : Instr} {c : Bytes} {f : Failure} (hi : i ∈ [Instr.validate, .parse])
    (h : validateCandidate c = .error f) : CanRaise i f := by
  obtain ⟨_, he⟩ | ⟨_, _, he⟩ | ⟨_, _, _, he⟩ | ⟨_, _, _, _, he, _⟩ := validateCandidate_cases c <;> cases he.symm.trans h
  · exact .frameTooShort hi
  · exact .lengthMismatch (.inl hi)
  · exact .checksumMismatch hi

/-- A frame as it was built has its length and its own checksum, so the validator can object to the length field only (R75, R150;
log entry 16). -/
theorem validateCandidate_candidateOf_error {api : Byte} {body : Bytes} {f : Failure}
    (h : validateCandidate (candidateOf (api :: body)) = .error f) : f = ⟨.lengthMismatch, 0x00⟩ := by
  obtain ⟨hshort, _⟩ | ⟨_, _, he⟩ | ⟨_, _, hsum, _⟩ | ⟨_, _, _, _, he, _⟩ :=
    validateCandidate_cases (candidateOf (api :: body))
  · rw [candidateOf_length, List.length_cons] at hshort
    omega
  · exact (Except.error.inj (he.symm.trans h)).symm
  · rw [frameDataOf_candidateOf, declaredChecksum_candidateOf] at hsum
    exact absurd rfl hsum
  · cases he.symm.trans h

/-- The parser raises the validator's errors, and `UnknownApiId` with an api_id that is not decoded (R158, R160). -/
theorem canRaise_of_parseCandidate {l : RespLayout} {c : Bytes} {f : Failure} (h : parseCandidate l c = .error f) :
    CanRaise .parse f := by
  unfold parseCandidate at h
  split at h
  · cases h
    exact canRaise_of_validateCandidate (by simp) ‹_›
  · rename_i b _
    obtain ⟨_, he⟩ | ⟨_, he⟩ | ⟨h97, h88, he⟩ := parseBase_cases l c b <;> cases he.symm.trans h
    exact .unknownApiId (.inl rfl) h88 h97

theorem one_lt_encode_length {i : Instr} {data : Bytes} (h : encode i = wireFrame data) : 1 < (encode i).length := by
  rw [h, wireFrame_length]
  omega

/-- A received frame raises `LengthMismatch` or what its type does (R77; log entry 4). -/
theorem canRaise_of_receivedOutcome {i : Instr} {api : Byte} {body : Bytes} {f : Failure}
    {d : Bytes → BaseRecord → Except Failure Response} (hi : encode i = wireFrame (api :: body))
    (hd : ∀ c b, d c b = .error f → CanRaise i f) (h : receivedOutcome api body d = .error f) : CanRaise i f := by
  obtain hv | ⟨b, _, hb⟩ := receivedOutcome_error h
  · rw [validateCandidate_candidateOf_error hv]
    exact .lengthMismatch (.inr (one_lt_encode_length hi))
  · exact hd _ b hb

/-- A build raises the error that applies. -/
theorem frameUnless_eq_error {e : Option Failure} {data : Bytes} {f : Failure} (h : frameUnless e data = .error f) :
    e = some f := by
  cases e with
  | none => cases h
  | some g => exact congrArg some (Except.error.inj h)

theorem canRaise_of_localError {q : Request} {f : Failure} (h : localError q = some f) : CanRaise .encLocalAt f := by
  unfold localError at h
  split_ifs at h <;> cases h
  · exact .invalidCommandName (by simp)
  · exact .payloadTooLarge (by simp)

theorem canRaise_of_remoteError {q : Request} {f : Failure} (h : remoteError q = some f) : CanRaise .encRemoteAt f := by
  unfold remoteError at h
  split_ifs at h <;> cases h
  · exact .invalidCommandName (by simp)
  · exact .invalidFieldWidth (by simp)
  · exact .invalidFieldWidth (by simp)
  · exact .invalidFieldWidth (by simp)
  · exact .payloadTooLarge (by simp)

/-- What an instruction raises is in its rows of R203's table. -/
theorem canRaise_of_outcomeOf {i : Instr} {p : Params} {q : Request} {f : Failure} (h : outcomeOf i p q = .error f) :
    CanRaise i f := by
  cases i <;> simp only [outcomeOf] at h
  case checksum | bytesToHex | split | decodeStream => cases h
  case lengthField =>
    split at h <;> cases h
    exact .payloadTooLarge (by simp)
  case hexToBytes =>
    split at h <;> cases h
    exact .malformedHex
  case encLocalAt => exact canRaise_of_localError (frameUnless_eq_error (buildLocalAt_eq q ▸ h))
  case encRemoteAt => exact canRaise_of_remoteError (frameUnless_eq_error (buildRemoteAt_eq q ▸ h))
  case encQueuedAt | encTx | encExplicitTx =>
    cases h
    exact .notImplemented (by simp)
  case validate =>
    split at h <;> cases h
    exact canRaise_of_validateCandidate (by simp) ‹_›
  case parse =>
    split at h <;> cases h
    exact canRaise_of_parseCandidate ‹_›
  case frameLocalAtCommand | frameRemoteAtCommand =>
    refine canRaise_of_receivedOutcome rfl (fun c b hd => ?_) h
    cases hd
    exact .unknownApiId (.inr (one_lt_encode_length rfl)) (by decide) (by decide)
  case frameLocalAtResponse | frameRemoteAtResponse =>
    refine canRaise_of_receivedOutcome rfl (fun c b hd => ?_) h
    cases hd

/-- Settles O40: a return leaves no error number, and a raise leaves those of one row of the table. -/
theorem errorsByOperation : Obligations.ErrorsByOperation := by
  unfold Obligations.ErrorsByOperation
  intro i s t h isFrame
  obtain ⟨f, hf, rfl⟩ | ⟨w, _, _, rfl⟩ := exec_next h
  · cases canRaise_of_outcomeOf hf with
    | malformedHex => simp [errorCode]
    | payloadTooLarge hi | invalidCommandName hi | notImplemented hi | frameTooShort hi | lengthMismatch hi
    | checksumMismatch hi => simpa [errorCode] using hi
    | invalidFieldWidth hinfo => simpa [errorCode] using hinfo
    | unknownApiId hi h88 h97 => simpa [errorCode] using ⟨hi, h88, h97⟩
  · simp

end Sys2Proof.Machine

namespace Sys2Proof.Machine

/-! The Reset access (R230), and a frame cut short (R234). -/

open Sys2Proof.Safety

/-- Settles O52: the step puts the request and the results at their reset values. -/
theorem resetAccessRestoresResetValues : Obligations.ResetAccessRestoresResetValues := by
  unfold Obligations.ResetAccessRestoresResetValues
  intro s rest h
  rw [step_access h]
  rfl

theorem byteAt_take {c : Bytes} {i k : Nat} (h : i < k) : byteAt (c.take k) i = byteAt c i := by
  rw [byteAt, byteAt, List.getD_eq_getElem?_getD, List.getD_eq_getElem?_getD, List.getElem?_take_of_lt h]

/-- A cut after the length bytes leaves the declared length (R152). -/
theorem declaredLength_take {c : Bytes} {k : Nat} (h : 2 ≤ k) : declaredLength (c.take k) = declaredLength c := by
  rw [declaredLength, declaredLength, byteAt_take (by omega), byteAt_take (by omega)]

/-- A candidate cut short has too few bytes, or fewer bytes of frame data than it declares (R151, R153). -/
theorem validateCandidate_take_candidateOf {data : Bytes} {k : Nat} (hl : data.length ≤ 0xFFFF)
    (hk : k < (candidateOf data).length) :
    validateCandidate ((candidateOf data).take k) =
      .error ⟨if k < 4 then .frameTooShort else .lengthMismatch, 0x00⟩ := by
  have hlen : ((candidateOf data).take k).length = k := List.length_take_of_le hk.le
  rw [candidateOf_length] at hk
  by_cases hshort : k < 4
  · rw [validateCandidate, hlen, if_pos hshort, if_pos hshort]
  · have hdata : (frameDataOf ((candidateOf data).take k)).length = k - 3 := by
      rw [frameDataOf_length (by omega), hlen]
    have hdeclared : declaredLength ((candidateOf data).take k) = data.length := by
      rw [declaredLength_take (by omega), declaredLength_candidateOf, Nat.mod_eq_of_lt (by omega)]
    rw [validateCandidate, hlen, if_neg hshort, if_neg hshort, hdata, hdeclared, if_pos (by omega)]

/-- Settles O32: VALIDATE raises what the validator answers for the candidate cut short. -/
theorem partialFrameFails : Obligations.PartialFrameFails := by
  unfold Obligations.PartialFrameFails
  intro data k s hl hk s'
  rw [← candidateOf_eq] at hk
  have hv : validateCandidate s'.req.input = _ := candidateOf_eq data ▸ validateCandidate_take_candidateOf hl hk
  rw [exec_validate_of_error hv, apply_ite errorCode]
  rfl

end Sys2Proof.Machine

namespace Sys2Proof.Machine

/-! Runs of the machine: a run that reaches a state is a step and a shorter run that does, and it observes once for each access
that observes (R247). -/

open Sys2Proof.Safety

/-- A run that reaches a state takes its first step and then reaches it by the rest. -/
theorem run_succ_eq_next_iff (M : Host.Core) (k : Nat) (s t : M.State) :
    M.run (k + 1) s = .next t ↔ ∃ u, M.step s = .next u ∧ M.run k u = .next t := by
  rw [Host.Core.run]
  cases M.step s <;> simp

/-- An access leaves the accesses to come as they are. -/
theorem performAccess_keeps_pending {a : Access} {s t : State} (h : performAccess a s = .next t) :
    t.host.pending = s.host.pending := by
  obtain ⟨v, u, _, hu, rfl⟩ | ⟨n, v, _, _, rfl⟩ | ⟨n, _, rfl⟩ | ⟨n, c, _, _, rfl⟩ | ⟨n, _, rfl⟩ | ⟨_, rfl⟩ :=
    performAccess_next h
  case inl => rw [observe_pending, issue_keeps_host hu]
  all_goals simp

/-- An access adds one observation when it is a read or an issue, and else none (R247). -/
theorem performAccess_observed_length {a : Access} {s t : State} (h : performAccess a s = .next t) :
    t.host.observed.length = s.host.observed.length + ([a].filter observes).length := by
  obtain ⟨v, u, rfl, hu, rfl⟩ | ⟨n, v, rfl, hn, rfl⟩ | ⟨n, rfl, rfl⟩ | ⟨n, c, rfl, _, rfl⟩ | ⟨n, rfl, rfl⟩ | ⟨rfl, rfl⟩ :=
    performAccess_next h
  · simp [observes, issueNumber, issue_keeps_host hu]
  · have hsilent : observes (.writeReg n v) = false := decide_eq_false hn
    simp [hsilent]
  all_goals simp [List.filter_singleton, observes]

/-- The run of all accesses to come adds one observation for each that observes (R247). -/
theorem run_observed_length (l : List Access) : ∀ {s t : State}, s.host.pending = l →
    Host.Core.run Sys2Proof.core l.length s = .next t →
      t.host.observed.length = s.host.observed.length + (l.filter observes).length := by
  induction l with
  | nil =>
    intro s t _ h
    cases h
    rfl
  | cons a rest ih =>
    intro s t hp h
    obtain ⟨u, hu, hrest⟩ := (run_succ_eq_next_iff Sys2Proof.core rest.length s t).mp h
    replace hu : performAccess a (setPending rest s) = .next u := step_access hp ▸ hu
    have hone := performAccess_observed_length hu
    have hmore := ih (performAccess_keeps_pending hu) hrest
    rw [setPending_observed] at hone
    rw [hmore, hone, Nat.add_assoc, ← List.length_append, ← List.filter_append]
    rfl

/-- Settles O54: the run begins with nothing observed. -/
theorem runObservationCount : Obligations.RunObservationCount := by
  unfold Obligations.RunObservationCount
  intro p l o h
  unfold observation at h
  split at h
  case h_1 t hrun =>
    cases h
    exact (run_observed_length l rfl hrun).trans (Nat.zero_add _)
  all_goals cases h

end Sys2Proof.Machine

namespace Sys2Proof.Machine

/-! Two host writes to different numbers, in either order (R232). -/

open Sys2Proof.Safety

/-- What a host write that is not refused leaves (R60). -/
def afterWrite : Access → State → State
  | .writeReg n v, s => writeReg n v s
  | .writeBuf n c, s => replaceBuf n c s
  | _, s => s

/-- The capacity has room for what a host write writes (R55). -/
def Admits (p : Params) : Access → Prop
  | .writeBuf n c => isBuffer n = true → c.length ≤ p.bufCap
  | _ => True

/-- The accesses that `writesTo` speaks of. -/
theorem writesTo_cases {n : Byte} {a : Access} (h : writesTo n a = true) :
    (∃ v, a = .writeReg n v ∧ n ≠ 0x03) ∨ ∃ c, a = .writeBuf n c := by
  cases a with
  | writeReg k v =>
    obtain ⟨rfl, hk⟩ := of_decide_eq_true h
    exact .inl ⟨v, rfl, hk⟩
  | writeBuf k c =>
    obtain rfl := of_decide_eq_true h
    exact .inr ⟨c, rfl⟩
  | readReg | readBuf | reset => cases h

@[simp] theorem afterWrite_params (a : Access) (s : State) : (afterWrite a s).params = s.params := by
  cases a <;> simp [afterWrite]

/-- A host write does not look at the accesses to come. -/
theorem afterWrite_setPending (a : Access) (l : List Access) (s : State) :
    afterWrite a (setPending l s) = setPending l (afterWrite a s) := by
  cases a with
  | writeReg n v =>
    simp only [afterWrite, writeReg_eq]
    rfl
  | writeBuf n c =>
    simp only [afterWrite, replaceBuf_eq]
    rfl
  | readReg | readBuf | reset => rfl

/-- A write that issues nothing is refused over capacity or leaves what it writes (R55, R60). -/
theorem performAccess_write_iff {n : Byte} {a : Access} (h : writesTo n a = true) (s t : State) :
    performAccess a s = .next t ↔ Admits s.params a ∧ afterWrite a s = t := by
  obtain ⟨v, rfl, hn⟩ | ⟨c, rfl⟩ := writesTo_cases h
  · have hp : performAccess (.writeReg n v) s = .next (writeReg n v s) := if_neg hn
    simp [hp, Admits, afterWrite]
  · obtain ⟨hb, hc, he⟩ | ⟨hc, he⟩ := writeBuf_cases n c s
    · simp [performAccess, Admits, he, hb, Nat.not_le.mpr hc]
    · have hadmits : Admits s.params (.writeBuf n c) := hc
      simp [performAccess, hadmits, afterWrite, he]

/-- A run whose first access is a write that issues nothing: the write is not refused, and the rest runs from what it leaves. -/
theorem run_write_iff {n : Byte} {a : Access} (h : writesTo n a = true) (k : Nat) (rest : List Access) (s t : State) :
    Host.Core.run Sys2Proof.core (k + 1) (setPending (a :: rest) s) = .next t ↔
      Admits s.params a ∧ Host.Core.run Sys2Proof.core k (setPending rest (afterWrite a s)) = .next t := by
  refine (run_succ_eq_next_iff Sys2Proof.core k (setPending (a :: rest) s) t).trans ⟨?_, ?_⟩
  · rintro ⟨u, hu, hrest⟩
    obtain ⟨hadmits, rfl⟩ := (performAccess_write_iff h _ u).mp hu
    exact ⟨hadmits, afterWrite_setPending a rest s ▸ hrest⟩
  · rintro ⟨hadmits, hrest⟩
    exact ⟨_, (performAccess_write_iff h _ _).mpr ⟨hadmits, afterWrite_setPending a rest s⟩, hrest⟩

/-- Registers with different numbers are different pieces of the request (R21). -/
theorem writeReg_comm {n m : Byte} (h : n ≠ m) (v w : Byte) (s : State) :
    writeReg n v (writeReg m w s) = writeReg m w (writeReg n v s) := by
  have hne : n.toNat ≠ m.toNat := mt BitVec.eq_of_toNat_eq h
  unfold writeReg
  split <;> split <;> try rfl
  all_goals omega

/-- Buffers with different numbers are different pieces of the request (R21). -/
theorem replaceBuf_comm {n m : Byte} (h : n ≠ m) (c d : Bytes) (s : State) :
    replaceBuf n c (replaceBuf m d s) = replaceBuf m d (replaceBuf n c s) := by
  have hne : n.toNat ≠ m.toNat := mt BitVec.eq_of_toNat_eq h
  unfold replaceBuf
  split <;> split <;> try rfl
  all_goals omega

/-- Registers and buffers are different pieces of the request, whatever their numbers (R21). -/
theorem writeReg_replaceBuf_comm (n m v : Byte) (c : Bytes) (s : State) :
    writeReg n v (replaceBuf m c s) = replaceBuf m c (writeReg n v s) := by
  unfold writeReg replaceBuf
  split <;> split <;> rfl

/-- What two writes to different numbers leave does not depend on their order. -/
theorem afterWrite_comm {a b : Access} {n m : Byte} (ha : writesTo n a = true) (hb : writesTo m b = true) (h : n ≠ m)
    (s : State) : afterWrite b (afterWrite a s) = afterWrite a (afterWrite b s) := by
  obtain ⟨v, rfl, _⟩ | ⟨c, rfl⟩ := writesTo_cases ha <;> obtain ⟨w, rfl, _⟩ | ⟨d, rfl⟩ := writesTo_cases hb
  · exact writeReg_comm h.symm w v s
  · exact (writeReg_replaceBuf_comm n m v d s).symm
  · exact writeReg_replaceBuf_comm m n w c s
  · exact replaceBuf_comm h.symm d c s

/-- Settles O49: in either order the same writes are refused, and what they leave is the same. -/
theorem hostWritesCommute : Obligations.HostWritesCommute := by
  unfold Obligations.HostWritesCommute
  intro s t a b n m ha hb h
  rw [run_write_iff ha, run_write_iff hb, run_write_iff hb, run_write_iff ha, afterWrite_params, afterWrite_params,
    afterWrite_comm ha hb h, and_left_comm]

end Sys2Proof.Machine
